-- ==== Sys2Proof/Word.lean ====
section
/-! DEFINITION. The widths of the block (00_scope.md R8): a pair and the data ports are 16 bits, a half and the
command word are 8. All values are unsigned; bit 0 is the least significant (R9). -/

namespace Sys2Proof

/-- A register pair, din or dout: PAIR_WIDTH = DATA_WIDTH = 16 (R8). -/
abbrev Word := BitVec 16

/-- A half or the command word: HALF_WIDTH = CMD_WIDTH = 8 (R8). -/
abbrev Byte := BitVec 8

end Sys2Proof
end

