-- ==== Sys2Proof/Syntax.lean ====
section
/-! DEFINITION. The seven commands of the block (30_encoding.md R73), the names they select (R74, R75, R76). A command
does not carry its write data: that stands on the din port in the command's cycle (R77, R81). -/

namespace Sys2Proof

/-- The four register pairs, in the order of their indices 0 to 3 (10_state.md R21). -/
inductive PairName where
  | af | bc | de | hl
deriving DecidableEq, Repr

/-- The eight 8-bit halves, in the order of their indices 0 to 7 (10_state.md R25, R26). -/
inductive HalfName where
  | a | f | b | c | d | e | h | l
deriving DecidableEq, Repr

/-- The four flags Zero, Add/Subtract, Half-Carry and Carry, in the order of their selects 0 to 3
(10_state.md R31, 30_encoding.md R76). -/
inductive FlagName where
  | z | n | h | c
deriving DecidableEq, Repr

/-- One constructor per row of spec/opcode_table.json. The operand types name exactly what a legal select names. -/
inductive Instr where
  | rd16 (p : PairName)   -- RD16: read a pair (R100)
  | wr16 (p : PairName)   -- WR16: write a pair from din (R101)
  | rd8 (r : HalfName)    -- RD8: read a half (R102)
  | wr8 (r : HalfName)    -- WR8: write a half from din[7:0] (R103)
  | rdf (f : FlagName)    -- RDF: read a flag (R120)
  | clrf (f : FlagName)   -- CLRF: turn a flag off (R122)
  | setf (f : FlagName)   -- SETF: turn a flag on (R121)
deriving DecidableEq, Repr

end Sys2Proof
end

