-- ==== Sys2Proof/WellFormed.lean ====
section
/-! DEFINITION. What a legal command word is, by the three conditions of 30_encoding.md R80, and what a well-formed
instruction is. The checks are on WORDS: the operand types of `Instr` name exactly the legal selects, so no term of
`Instr` is ill-formed and `Instr.wellFormed` has nothing to refuse. -/

namespace Sys2Proof

/-- R80, first condition: class 111 names no operation. -/
def classDefined (w : Byte) : Bool := !(w.getLsbD 7 && w.getLsbD 6 && w.getLsbD 5)

/-- R80, second condition: the reserved bits 4 and 3 are 00. -/
def reservedClear (w : Byte) : Bool := !w.getLsbD 4 && !w.getLsbD 3

/-- R80, third condition: sel[2] is 0, except in the half classes 010 and 011, whose select uses all three bits. -/
def selectInRange (w : Byte) : Bool := (!w.getLsbD 7 && w.getLsbD 6) || !w.getLsbD 2

/-- A word that names a command: none of R80's conditions makes it illegal. -/
def legalWord (w : Byte) : Bool := classDefined w && reservedClear w && selectInRange w

/-- Every instruction term is well-formed: one arm per constructor, nothing to refuse. -/
def Instr.wellFormed : Instr → Bool
  | .rd16 _ => true
  | .wr16 _ => true
  | .rd8 _ => true
  | .wr8 _ => true
  | .rdf _ => true
  | .clrf _ => true
  | .setf _ => true

end Sys2Proof
end

