-- ==== Sys2Proof/Decode.lean ====
section
/-! DEFINITION. The command word: its fields, the decoder of 30_encoding.md R82 (total on every 8-bit word, refusing
each illegal word by name), the encoder written from the rows of R79, and the rows of the opcode table. -/

namespace Sys2Proof

/-! ## Fields of the command word (R72) -/

/-- class, bits 7:5. -/
def classField (w : Byte) : BitVec 3 := w.extractLsb' 5 3

/-- rsv, bits 4:3. -/
def rsvField (w : Byte) : BitVec 2 := w.extractLsb' 3 2

/-- sel, bits 2:0. -/
def selField (w : Byte) : BitVec 3 := w.extractLsb' 0 3

/-- sel[1:0], the pair or flag index of the classes whose sel[2] is 0 (R74, R76). -/
def selLow (w : Byte) : BitVec 2 := w.extractLsb' 0 2

/-- sel[2] (R74, R76). -/
def selTop (w : Byte) : Bool := w.getLsbD 2

/-! ## Indices of the selected names -/

/-- The pair index: AF 0, BC 1, DE 2, HL 3 (10_state.md R21). -/
def PairName.index : PairName → BitVec 2
  | .af => 0b00#2
  | .bc => 0b01#2
  | .de => 0b10#2
  | .hl => 0b11#2

/-- The pair a 2-bit index names (R74). -/
def PairName.ofIndex (x : BitVec 2) : PairName :=
  if x = 0b00#2 then .af
  else if x = 0b01#2 then .bc
  else if x = 0b10#2 then .de
  else .hl

/-- The half index: A 0, F 1, B 2, C 3, D 4, E 5, H 6, L 7 (10_state.md R26). -/
def HalfName.index : HalfName → BitVec 3
  | .a => 0b000#3
  | .f => 0b001#3
  | .b => 0b010#3
  | .c => 0b011#3
  | .d => 0b100#3
  | .e => 0b101#3
  | .h => 0b110#3
  | .l => 0b111#3

/-- The half a 3-bit index names (R75). -/
def HalfName.ofIndex (x : BitVec 3) : HalfName :=
  if x = 0b000#3 then .a
  else if x = 0b001#3 then .f
  else if x = 0b010#3 then .b
  else if x = 0b011#3 then .c
  else if x = 0b100#3 then .d
  else if x = 0b101#3 then .e
  else if x = 0b110#3 then .h
  else .l

/-- The flag select: Z 0, N 1, H 2, C 3 (R76). -/
def FlagName.index : FlagName → BitVec 2
  | .z => 0b00#2
  | .n => 0b01#2
  | .h => 0b10#2
  | .c => 0b11#2

/-- The flag a 2-bit select names (R76). -/
def FlagName.ofIndex (x : BitVec 2) : FlagName :=
  if x = 0b00#2 then .z
  else if x = 0b01#2 then .n
  else if x = 0b10#2 then .h
  else .c

/-! ## The decoder (R82) -/

/-- Why a word is no command: the three conditions of R80. Each raises IllegalCommand when the word is accepted. -/
inductive Illegal where
  /-- rsv is not 00. -/
  | reservedBits
  /-- sel[2] is 1 in a pair or flag class: among them the source's out-of-range flag index (41_flags.md R129). -/
  | selectOutOfRange
  /-- class 111. -/
  | undefinedClass
deriving DecidableEq, Repr

/-- The classes whose sel[2] must be 0, in R82's order of tests. -/
def decodeShort (w : Byte) (i : Instr) : Except Illegal Instr :=
  if selTop w then .error .selectOutOfRange else .ok i

/-- The complete decoder, in the order of R82: rsv, then the class, then sel[2]. -/
def decode (w : Byte) : Except Illegal Instr :=
  if rsvField w ≠ 0b00#2 then .error .reservedBits
  else if classField w = 0b000#3 then decodeShort w (.rd16 (PairName.ofIndex (selLow w)))
  else if classField w = 0b001#3 then decodeShort w (.wr16 (PairName.ofIndex (selLow w)))
  else if classField w = 0b010#3 then .ok (.rd8 (HalfName.ofIndex (selField w)))
  else if classField w = 0b011#3 then .ok (.wr8 (HalfName.ofIndex (selField w)))
  else if classField w = 0b100#3 then decodeShort w (.rdf (FlagName.ofIndex (selLow w)))
  else if classField w = 0b101#3 then decodeShort w (.clrf (FlagName.ofIndex (selLow w)))
  else if classField w = 0b110#3 then decodeShort w (.setf (FlagName.ofIndex (selLow w)))
  else .error .undefinedClass

/-! ## The encoder (R72 to R76, R79) -/

/-- The word of an instruction: class, 00, select. -/
def encode : Instr → Byte
  | .rd16 p => 0b000#3 ++ 0b00#2 ++ 0b0#1 ++ p.index
  | .wr16 p => 0b001#3 ++ 0b00#2 ++ 0b0#1 ++ p.index
  | .rd8 r => 0b010#3 ++ 0b00#2 ++ r.index
  | .wr8 r => 0b011#3 ++ 0b00#2 ++ r.index
  | .rdf f => 0b100#3 ++ 0b00#2 ++ 0b0#1 ++ f.index
  | .clrf f => 0b101#3 ++ 0b00#2 ++ 0b0#1 ++ f.index
  | .setf f => 0b110#3 ++ 0b00#2 ++ 0b0#1 ++ f.index

/-! ## The opcode table (R79): match and mask -/

/-- One row of the opcode table. -/
structure OpcodeRow where
  mnemonic  : String
  matchBits : Byte
  maskBits  : Byte
deriving DecidableEq, Repr

/-- R79's match and mask pairs: a word belongs to a row when word & mask = match. -/
def opcodeRows : List OpcodeRow :=
  [ ⟨"RD16", 0x00, 0xFC⟩, ⟨"WR16", 0x20, 0xFC⟩, ⟨"RD8", 0x40, 0xF8⟩, ⟨"WR8", 0x60, 0xF8⟩,
    ⟨"RDF", 0x80, 0xFC⟩, ⟨"CLRF", 0xA0, 0xFC⟩, ⟨"SETF", 0xC0, 0xFC⟩ ]

/-- The rows a word belongs to. -/
def rowsOf (w : Byte) : List OpcodeRow := opcodeRows.filter fun row => w &&& row.maskBits = row.matchBits

/-! ## Words as spec/opcode_table.json numbers them -/

/-- The command word of a table word of nbits bits: a command has one word of 8 bits (R81). -/
def tableWord (nbits w : Nat) : Byte := BitVec.ofNat 8 (w % 2 ^ nbits)

/-- What the decoder reads from a table word; a word with a bit above bit 7 is no command word (R81). -/
def decodeTableWord (nbits w : Nat) : Option Instr :=
  if w % 2 ^ nbits < 256 then
    match decode (tableWord nbits w) with
    | .ok i => some i
    | .error _ => none
  else none

end Sys2Proof
end

