-- ==== Sys2Proof/Config.lean ====
section
/-! DEFINITION. What is fixed for one block, and the free values: constants with no body, of which nothing can be
proved but what holds for every value. -/

namespace Sys2Proof

/-- The reset parameters RESET_AF, RESET_BC, RESET_DE, RESET_HL and their defaults (00_scope.md R8, 10_state.md R39).
Held in the state as data that no step changes (log entry 2), so a statement over every state is one for every
choice of parameters. -/
structure ResetParams where
  af : Word := 0x0000
  bc : Word := 0x0000
  de : Word := 0x0000
  hl : Word := 0x0000
deriving DecidableEq, Repr

/-- FREE VALUE: the n-th unspecified value of dout, in a reset cycle or a cycle with no accepted command
(70_reset_and_hazards.md R161, R169; log entry 4). -/
opaque Config.freeDout : Nat → Word

/-- FREE VALUE: what the cell of pair index n holds at power-on, before the first reset (70_reset_and_hazards.md R162;
log entry 5). -/
opaque Config.powerOnCell : Nat → Word

end Sys2Proof
end

