-- ==== Sys2Proof/Machine/State.lean ====
section
/-! DEFINITION. The state of the block as plain data: the four cells the spec gives it (10_state.md R20), the reset
parameters, the ports of 30_encoding.md R70, and the model's own bookkeeping (log entries 1 to 4). -/

namespace Sys2Proof.Machine

/-- The whole architectural state: four 16-bit cells P[0] to P[3] (10_state.md R20, R21). The halves and the flags
are views of them and have no storage (R24, R33). -/
structure Pairs where
  af : Word
  bc : Word
  de : Word
  hl : Word
deriving DecidableEq, Repr

/-- The levels at the input ports in one clock cycle (30_encoding.md R70). -/
structure PortIn where
  rst      : Bool
  cmdValid : Bool
  cmd      : Byte
  din      : Word
deriving DecidableEq, Repr

/-- The levels at the output ports in one clock cycle (30_encoding.md R70, R78). -/
structure PortOut where
  dout : Word
  err  : Bool
deriving DecidableEq, Repr

/-- A cycle in which nothing is presented (R71): what the ports carry once the collaborator's cycles are used up
(log entry 1). -/
def PortIn.idle : PortIn := { rst := false, cmdValid := false, cmd := 0x00, din := 0x0000 }

/-- The machine: the block, and what stands at its ports. -/
structure State where
  /-- The four pairs: all the state the spec gives the block (R20). -/
  pairs   : Pairs
  /-- The reset parameters (R8); no step changes them. -/
  params  : ResetParams
  /-- The input ports in the cycle about to be performed. -/
  pins    : PortIn
  /-- The cycles the collaborator presents after that one, in order. -/
  pending : List PortIn
  /-- The output ports in the cycle last performed: the response of 00_scope.md R12. -/
  out     : PortOut
  /-- How many unspecified values of dout have been drawn. -/
  draws   : Nat
deriving DecidableEq, Repr

/-- Why a run is faulted. -/
inductive Fault where
  /-- IllegalCommand, the block's only exception, with the word it records (60_exceptions.md R140, R141). Raised by
  `Sys2Proof.Machine.raiseIllegalCommand` for an accepted illegal word. Safe: the spec says the run is faulted. -/
  | illegalCommand (cmd : Byte)
deriving DecidableEq, Repr

/-- Why the model gives no meaning. -/
inductive Refusal where
  /-- An instruction without a meaning. Raised by no arm of this model: every command has its meaning. Safe. -/
  | notModelled (mnemonic : String)
deriving DecidableEq, Repr

/-- The state right after the reset cycle of a block built with parameters p: each pair at its parameter, err 0, dout
unspecified (10_state.md R39), nothing presented. -/
def State.resetWith (p : ResetParams) : State where
  pairs   := { af := p.af, bc := p.bc, de := p.de, hl := p.hl }
  params  := p
  pins    := PortIn.idle
  pending := []
  out     := { dout := Config.freeDout 0, err := false }
  draws   := 1

/-- The state right after reset with the default parameters (R8, R39). -/
def State.reset : State := State.resetWith {}

/-- Power-on, before the first reset: every cell unspecified (70_reset_and_hazards.md R162). -/
def State.powerOn (p : ResetParams) : State where
  pairs   := { af := Config.powerOnCell 0, bc := Config.powerOnCell 1, de := Config.powerOnCell 2,
               hl := Config.powerOnCell 3 }
  params  := p
  pins    := PortIn.idle
  pending := []
  out     := { dout := Config.freeDout 0, err := false }
  draws   := 1

end Sys2Proof.Machine
end

