-- ==== Sys2Proof/Machine/Ops.lean ====
section
/-! DEFINITION. The operations every meaning is built from: the cells (00_scope.md R11), the responses (R11,
30_encoding.md R78), the one exception (60_exceptions.md R140, R141), a reset cycle (70_reset_and_hazards.md R160), an
idle cycle (R71, R169) and the collaborator's next cycle. -/

namespace Sys2Proof.Machine

/-! ## Bytes of a word -/

/-- v[15:8] (10_state.md R22). -/
def highByte (v : Word) : Byte := v.extractLsb' 8 8

/-- v[7:0] (10_state.md R23). -/
def lowByte (v : Word) : Byte := v.extractLsb' 0 8

/-- `{ h, l }`, h the more significant byte (00_scope.md R10, 20_memory.md R52). -/
def joinBytes (h l : Byte) : Word := h ++ l

/-! ## The cells -/

/-- `P[p]` (00_scope.md R11). -/
def Pairs.get (x : Pairs) : PairName → Word
  | .af => x.af
  | .bc => x.bc
  | .de => x.de
  | .hl => x.hl

/-- `P[p] <- v` (00_scope.md R11). -/
def Pairs.set (x : Pairs) (p : PairName) (v : Word) : Pairs :=
  match p with
  | .af => { x with af := v }
  | .bc => { x with bc := v }
  | .de => { x with de := v }
  | .hl => { x with hl := v }

/-! ## Responses -/

/-- `resp <- Val(v)`: dout is v and err 0 (R78). -/
def State.respond (s : State) (v : Word) : State := { s with out := { dout := v, err := false } }

/-- A write command's effect and its `resp <- Ack`: dout is 0x0000 and err 0 (R78). -/
def State.commit (s : State) (x : Pairs) : State := { s with pairs := x, out := { dout := 0x0000, err := false } }

/-! ## The exception -/

/-- What the hardware shows of IllegalCommand: no pair changes, err 1, dout 0x0000; nothing is saved and control goes
nowhere (60_exceptions.md R141, R145). -/
def State.showIllegal (s : State) : State := { s with out := { dout := 0x0000, err := true } }

/-- `raise IllegalCommand(cmd)`: the run is faulted, and the word is what is recorded (60_exceptions.md R140, R141). -/
def raiseIllegalCommand (s : State) : Host.Outcome State Fault Refusal := .fault (.illegalCommand s.pins.cmd)

/-- The cause code of an exception (60_exceptions.md R140). -/
def causeCode : Fault → Nat
  | .illegalCommand _ => 1

/-! ## Cycles without a command -/

/-- The unspecified dout of a reset or idle cycle: the next free value (70_reset_and_hazards.md R161, R169). -/
def State.unspecifiedOut (s : State) : State :=
  { s with out := { dout := Config.freeDout s.draws, err := false }, draws := s.draws + 1 }

/-- The four cells at their reset values (70_reset_and_hazards.md R160). -/
def resetPairs (p : ResetParams) : Pairs := { af := p.af, bc := p.bc, de := p.de, hl := p.hl }

/-- A cycle with rst = 1: every pair is loaded with its parameter (R160), err is 0 and dout unspecified (R161). -/
def State.acceptReset (s : State) : State := { s.unspecifiedOut with pairs := resetPairs s.params }

/-- A cycle with rst = 0 and cmd_valid = 0: no pair changes, err is 0 and dout unspecified (R71, R169). -/
def State.idleCycle (s : State) : State := s.unspecifiedOut

/-! ## The collaborator's cycles -/

/-- The rising edge puts the collaborator's next cycle on the input ports, or an idle one where it has none left
(log entry 1). -/
def State.advance (s : State) : State :=
  { s with pins := s.pending.headD PortIn.idle, pending := s.pending.tail }

/-- s with the cycles cs presented from now on. -/
def State.present (s : State) (cs : List PortIn) : State :=
  { s with pins := cs.headD PortIn.idle, pending := cs.tail }

/-- The cycle that presents the word w with write data d (R71); with a raw word it is R83's `.byte`. -/
def PortIn.command (w : Byte) (d : Word) : PortIn := { rst := false, cmdValid := true, cmd := w, din := d }

/-- The cycle that asserts rst and presents nothing (70_reset_and_hazards.md R160). -/
def PortIn.reset : PortIn := { PortIn.idle with rst := true }

end Sys2Proof.Machine
end

