-- ==== Sys2Proof/Machine/Flags.lean ====
section
/-! DEFINITION. The flags view: a projection of F, the low byte of AF, with no storage of its own (10_state.md R30 to
R33, 41_flags.md). Each flag has its own bit and its own mask (R31, R128). -/

namespace Sys2Proof

/-- The bit of F a flag stands at (10_state.md R31). -/
def FlagName.bit : FlagName → Nat
  | .z => 7
  | .n => 6
  | .h => 5
  | .c => 4

/-- A flag's own mask (10_state.md R31). -/
def FlagName.mask : FlagName → Byte
  | .z => 0x80
  | .n => 0x40
  | .h => 0x20
  | .c => 0x10

end Sys2Proof

namespace Sys2Proof.Machine

/-- F = P[0][7:0] (10_state.md R30). -/
def Pairs.flagByte (x : Pairs) : Byte := lowByte x.af

/-- `P[0] <- { P[0][15:8], v }`: F replaced, A kept. -/
def Pairs.setFlagByte (x : Pairs) (v : Byte) : Pairs := { x with af := joinBytes (highByte x.af) v }

/-- The read projection: `(byte & mask) != 0` (41_flags.md R120). -/
def Pairs.readFlag (x : Pairs) (f : FlagName) : Bool := x.flagByte &&& f.mask != 0x00#8

/-- Turn a flag on: `byte |= mask` (41_flags.md R121). -/
def Pairs.flagOn (x : Pairs) (f : FlagName) : Pairs := x.setFlagByte (x.flagByte ||| f.mask)

/-- Turn a flag off: `byte &= !mask` (41_flags.md R122). -/
def Pairs.flagOff (x : Pairs) (f : FlagName) : Pairs := x.setFlagByte (x.flagByte &&& ~~~f.mask)

end Sys2Proof.Machine
end

