-- ==== Sys2Proof/Machine/Operands.lean ====
section
/-! DEFINITION. Every operand form: the eight halves as views of the pairs (10_state.md R22 to R26), the write data on
din and the zero-extended results (30_encoding.md R77, R78). -/

namespace Sys2Proof

/-- The pair a half belongs to (10_state.md R25). -/
def HalfName.pair : HalfName → PairName
  | .a | .f => .af
  | .b | .c => .bc
  | .d | .e => .de
  | .h | .l => .hl

/-- Whether a half is the high byte of its pair (10_state.md R25): r[0] = 0 in R26. -/
def HalfName.isHigh : HalfName → Bool
  | .a | .b | .d | .h => true
  | .f | .c | .e | .l => false

/-- The half that is the high byte of a pair (10_state.md R25). -/
def PairName.highHalf : PairName → HalfName
  | .af => .a
  | .bc => .b
  | .de => .d
  | .hl => .h

/-- The half that is the low byte of a pair (10_state.md R25). -/
def PairName.lowHalf : PairName → HalfName
  | .af => .f
  | .bc => .c
  | .de => .e
  | .hl => .l

end Sys2Proof

namespace Sys2Proof.Machine

/-- `Half(r)` (10_state.md R26). -/
def Pairs.readHalf (x : Pairs) (r : HalfName) : Byte :=
  if r.isHigh then highByte (x.get r.pair) else lowByte (x.get r.pair)

/-- `Half(r) <- v`: the other byte of the pair is kept (10_state.md R26). -/
def Pairs.writeHalf (x : Pairs) (r : HalfName) (v : Byte) : Pairs :=
  if r.isHigh then x.set r.pair (joinBytes v (lowByte (x.get r.pair)))
  else x.set r.pair (joinBytes (highByte (x.get r.pair)) v)

/-- WR16's operand: din[15:0] unchanged (R77). -/
def State.din16 (s : State) : Word := s.pins.din

/-- WR8's operand: din[7:0]; din[15:8] is ignored (R77). -/
def State.din8 (s : State) : Byte := lowByte s.pins.din

/-- `zext_16` of a half (R78). -/
def zextByte (v : Byte) : Word := v.setWidth 16

/-- `zext_16` of a flag: 0x0001 for true, 0x0000 for false (R78). -/
def zextBit (b : Bool) : Word := if b then 0x0001 else 0x0000

end Sys2Proof.Machine
end

