-- ==== Sys2Proof/Machine/FlagsView.lean ====
section
/-! DEFINITION. The flag commands RDF, CLRF, SETF (41_flags.md R120 to R122). None raises an exception, none reads din,
and each answers a next state in every state (60_exceptions.md R142). -/

namespace Sys2Proof.Machine

/-- RDF (R120). -/
def execRdf (f : FlagName) (s : State) : Host.Outcome State Fault Refusal :=
  .next (s.respond (zextBit (s.pairs.readFlag f)))

/-- CLRF (R122). -/
def execClrf (f : FlagName) (s : State) : Host.Outcome State Fault Refusal := .next (s.commit (s.pairs.flagOff f))

/-- SETF (R121). -/
def execSetf (f : FlagName) (s : State) : Host.Outcome State Fault Refusal := .next (s.commit (s.pairs.flagOn f))

end Sys2Proof.Machine
end

