-- ==== Sys2Proof/Machine/PairAccess.lean ====
section
/-! DEFINITION. The pair and half commands RD16, WR16, RD8, WR8 (40_pair_access.md R100 to R103). None raises an
exception, and each answers a next state in every state (60_exceptions.md R142). -/

namespace Sys2Proof.Machine

/-- RD16 (R100). -/
def execRd16 (p : PairName) (s : State) : Host.Outcome State Fault Refusal := .next (s.respond (s.pairs.get p))

/-- WR16 (R101). -/
def execWr16 (p : PairName) (s : State) : Host.Outcome State Fault Refusal := .next (s.commit (s.pairs.set p s.din16))

/-- RD8 (R102). -/
def execRd8 (r : HalfName) (s : State) : Host.Outcome State Fault Refusal :=
  .next (s.respond (zextByte (s.pairs.readHalf r)))

/-- WR8 (R103). -/
def execWr8 (r : HalfName) (s : State) : Host.Outcome State Fault Refusal :=
  .next (s.commit (s.pairs.writeHalf r s.din8))

end Sys2Proof.Machine
end

