-- ==== Sys2Proof/Machine/Dispatch.lean ====
section
/-! DEFINITION. One arm per constructor of Instr, each one call of its meaning. -/

namespace Sys2Proof.Machine

def exec (i : Instr) (s : State) : Host.Outcome State Fault Refusal :=
  match i with
  | .rd16 p => Sys2Proof.Machine.execRd16 p s
  | .wr16 p => Sys2Proof.Machine.execWr16 p s
  | .rd8 r => Sys2Proof.Machine.execRd8 r s
  | .wr8 r => Sys2Proof.Machine.execWr8 r s
  | .rdf f => Sys2Proof.Machine.execRdf f s
  | .clrf f => Sys2Proof.Machine.execClrf f s
  | .setf f => Sys2Proof.Machine.execSetf f s

end Sys2Proof.Machine
end

