-- ==== Sys2Proof/Machine/Cycle.lean ====
section
/-! DEFINITION. One clock cycle: what the ports ask of the block in it (30_encoding.md R71, 60_exceptions.md R144,
70_reset_and_hazards.md R161), and the outputs in it (R78, R169), computed before the edge. -/

namespace Sys2Proof.Machine

/-- The cycle at the ports: reset wins (R144, R161); else an accepted word is decoded and performed or raises
IllegalCommand (R141); else nothing is done (R71). -/
def cycle (s : State) : Host.Outcome State Fault Refusal :=
  if s.pins.rst then .next s.acceptReset
  else if s.pins.cmdValid then
    match decode s.pins.cmd with
    | .ok i => exec i s
    | .error _ => raiseIllegalCommand s
  else .next s.idleCycle

/-- After a cycle that was performed the ports carry the next one; a faulted run stays faulted (60_exceptions.md R146). -/
def afterCycle : Host.Outcome State Fault Refusal → Host.Outcome State Fault Refusal
  | .next t => .next t.advance
  | .fault r => .fault r
  | .refused r => .refused r

/-- The HARDWARE's edge, total: an illegal word shows err for its cycle and the next cycle goes on (60_exceptions.md
R145, R146, D26). `step` gives the model's faulted run instead (R141). -/
def edge (s : State) : State :=
  match cycle s with
  | .next t => t.advance
  | .fault _ => s.showIllegal.advance
  | .refused _ => s.advance

/-- dout of each command, from the state before the edge (30_encoding.md R78). -/
def doutOf (x : Pairs) : Instr → Word
  | .rd16 p => x.get p
  | .rd8 r => 0x00#8 ++ x.readHalf r
  | .rdf f => BitVec.ofNat 16 (x.flagByte.getLsbD f.bit).toNat
  | .wr16 _ | .wr8 _ | .clrf _ | .setf _ => 0x0000

/-- The outputs in the cycle at the ports: combinational from cmd and the state before the edge (R71, R78); with no
accepted command dout is unspecified and err 0 (R169). -/
def outputs (s : State) : PortOut :=
  if s.pins.rst || !s.pins.cmdValid then { dout := Config.freeDout s.draws, err := false }
  else
    match decode s.pins.cmd with
    | .ok i => { dout := doutOf s.pairs i, err := false }
    | .error _ => { dout := 0x0000, err := true }

end Sys2Proof.Machine
end

