-- ==== Sys2Proof/Machine/Step.lean ====
section
/-! DEFINITION. The step: one clock cycle (30_encoding.md R71, log entry 6). -/

namespace Sys2Proof.Machine

/-- The cycle at the ports, then the collaborator's next one on them. -/
def step (s : State) : Host.Outcome State Fault Refusal := afterCycle (cycle s)

/-- s with the word of a table row presented in the next cycle; din and everything else stay (log entry 7). -/
def State.withFetchWord (s : State) (nbits w : Nat) : State :=
  { s with pins := { s.pins with rst := false, cmdValid := true, cmd := tableWord nbits w } }

end Sys2Proof.Machine
end

