-- ==== Sys2Proof/Machine/Assembler.lean ====
section
/-! DEFINITION. The written form of a command and the pseudo-instructions (30_encoding.md R83). -/

namespace Sys2Proof.Machine

/-- A command as written: mnemonic, operand, and the immediate driven on din where the command takes one. -/
structure Written where
  mnemonic : String
  operand  : String
  imm      : Option Word
deriving DecidableEq, Repr

/-- The operand `pp`. -/
def pairText : PairName → String
  | .af => "AF"
  | .bc => "BC"
  | .de => "DE"
  | .hl => "HL"

/-- The operand `r`. -/
def halfText : HalfName → String
  | .a => "A"
  | .f => "F"
  | .b => "B"
  | .c => "C"
  | .d => "D"
  | .e => "E"
  | .h => "H"
  | .l => "L"

/-- The operand `f` of the flag commands. -/
def flagText : FlagName → String
  | .z => "Z"
  | .n => "N"
  | .h => "H"
  | .c => "C"

/-- The written form of a command presented with din: imm16 for WR16, imm8 for WR8, none otherwise. -/
def writtenForm (i : Instr) (din : Word) : Written :=
  match i with
  | .rd16 p => ⟨"RD16", pairText p, none⟩
  | .wr16 p => ⟨"WR16", pairText p, some din⟩
  | .rd8 r => ⟨"RD8", halfText r, none⟩
  | .wr8 r => ⟨"WR8", halfText r, some (din &&& 0x00FF)⟩
  | .rdf f => ⟨"RDF", flagText f, none⟩
  | .clrf f => ⟨"CLRF", flagText f, none⟩
  | .setf f => ⟨"SETF", flagText f, none⟩

/-- `SETFV f, on`: SETF f or CLRF f. -/
def setfv (f : FlagName) (on : Bool) : Instr := if on then .setf f else .clrf f

/-- `RDFLAGS`: RD8 F, of whose result the caller takes bits 7:4. -/
def rdflags : Instr := .rd8 .f

/-- The cycle that presents an instruction with write data d. -/
def PortIn.ofInstr (i : Instr) (d : Word) : PortIn := PortIn.command (encode i) d

end Sys2Proof.Machine
end

