-- ==== Sys2Proof/Machine/StepModel.lean ====
section
/-! DEFINITION. The spec's own step function `step : State -> Input -> State x Response` (00_scope.md R12,
60_exceptions.md R141), written over a SECOND storage layout: eight separate bytes, which 10_state.md R24 allows as long
as R22 and R23 hold after every step. No part of `exec` is used here: statements say that the two agree. -/

namespace Sys2Proof.Machine

/-- The eight halves, each stored on its own. -/
structure ByteFile where
  a : Byte
  f : Byte
  b : Byte
  c : Byte
  d : Byte
  e : Byte
  h : Byte
  l : Byte
deriving DecidableEq, Repr

/-- The input of one step (R12). -/
inductive Input where
  | reset
  | cmd (word : Byte) (din : Word)
deriving DecidableEq, Repr

/-- The response of one step (R12). -/
inductive Response where
  | val (v : Word)
  | ack
  | fault (word : Byte)
deriving DecidableEq, Repr

/-- The eight bytes of four pairs (10_state.md R25). -/
def ByteFile.ofPairs (x : Pairs) : ByteFile :=
  { a := highByte x.af, f := lowByte x.af, b := highByte x.bc, c := lowByte x.bc,
    d := highByte x.de, e := lowByte x.de, h := highByte x.hl, l := lowByte x.hl }

/-- The stored byte of a half. -/
def ByteFile.get (x : ByteFile) : HalfName → Byte
  | .a => x.a
  | .f => x.f
  | .b => x.b
  | .c => x.c
  | .d => x.d
  | .e => x.e
  | .h => x.h
  | .l => x.l

/-- Store one byte. -/
def ByteFile.put (x : ByteFile) (r : HalfName) (v : Byte) : ByteFile :=
  match r with
  | .a => { x with a := v }
  | .f => { x with f := v }
  | .b => { x with b := v }
  | .c => { x with c := v }
  | .d => { x with d := v }
  | .e => { x with e := v }
  | .h => { x with h := v }
  | .l => { x with l := v }

/-- A legal command on the eight bytes, by the closed forms of R100 to R103 and 41_flags.md R123. -/
def ByteFile.perform (x : ByteFile) (din : Word) : Instr → ByteFile × Response
  | .rd16 p => (x, .val (x.get p.highHalf ++ x.get p.lowHalf))
  | .wr16 p => ((x.put p.highHalf (din.extractLsb' 8 8)).put p.lowHalf (din.extractLsb' 0 8), .ack)
  | .rd8 r => (x, .val (0x00#8 ++ x.get r))
  | .wr8 r => (x.put r (din.extractLsb' 0 8), .ack)
  | .rdf .z => (x, .val (0x0000#15 ++ x.f.extractLsb' 7 1))
  | .rdf .n => (x, .val (0x0000#15 ++ x.f.extractLsb' 6 1))
  | .rdf .h => (x, .val (0x0000#15 ++ x.f.extractLsb' 5 1))
  | .rdf .c => (x, .val (0x0000#15 ++ x.f.extractLsb' 4 1))
  | .clrf .z => (x.put .f (x.f &&& 0x7F), .ack)
  | .clrf .n => (x.put .f (x.f &&& 0xBF), .ack)
  | .clrf .h => (x.put .f (x.f &&& 0xDF), .ack)
  | .clrf .c => (x.put .f (x.f &&& 0xEF), .ack)
  | .setf .z => (x.put .f (x.f ||| 0x80), .ack)
  | .setf .n => (x.put .f (x.f ||| 0x40), .ack)
  | .setf .h => (x.put .f (x.f ||| 0x20), .ack)
  | .setf .c => (x.put .f (x.f ||| 0x10), .ack)

/-- R12's step, with R141's two cases for a command and R160's for a reset. -/
def ByteFile.step (p : ResetParams) (x : ByteFile) : Input → ByteFile × Response
  | .reset => (ByteFile.ofPairs (resetPairs p), .ack)
  | .cmd word din =>
    match decode word with
    | .ok i => x.perform din i
    | .error _ => (x, .fault word)

/-- The input a clock cycle amounts to: a reset, an accepted command, or none (R12, 30_encoding.md R71). -/
def PortIn.input? (c : PortIn) : Option Input :=
  if c.rst then some .reset else if c.cmdValid then some (.cmd c.cmd c.din) else none

/-- The state after a sequence of inputs: the composition of their rules, in order (20_memory.md R62). -/
def ByteFile.runInputs (p : ResetParams) (x : ByteFile) (is : List Input) : ByteFile :=
  is.foldl (fun y i => (y.step p i).1) x

end Sys2Proof.Machine
end

