-- ==== Sys2Proof/Safety.lean ====
section
/-! DEFINITION. What a safe run is: one that raises no IllegalCommand. The collaborator's part of it is to present legal
words only (30_encoding.md R80, 60_exceptions.md R141, R142). -/

namespace Sys2Proof.Machine

/-- A cycle that raises nothing: reset, no command, or a legal word (R144, R71, R142). -/
def PortIn.legal (c : PortIn) : Bool := c.rst || !c.cmdValid || legalWord c.cmd

/-- Every cycle the collaborator presents from now on is legal. -/
def State.inputsLegal (s : State) : Bool := s.pins.legal && s.pending.all PortIn.legal

/-- The invariant of a run whose inputs are legal: they stay legal, and the completed cycle showed err 0. -/
abbrev State.Inv (s : State) : Prop := s.inputsLegal = true ∧ s.out.err = false

/-- Everything a command leaves alone: all of the state but the four pairs and the outputs. -/
abbrev SameSurroundings (s t : State) : Prop :=
  t.params = s.params ∧ t.pins = s.pins ∧ t.pending = s.pending ∧ t.draws = s.draws

/-- The one pair a command may write: none for the three reads (10_state.md R34, 40_pair_access.md R107). -/
def writeTarget : Instr → Option PairName
  | .wr16 p => some p
  | .wr8 r => some r.pair
  | .clrf _ | .setf _ => some .af
  | .rd16 _ | .rd8 _ | .rdf _ => none

/-- No number of steps from s ends in a fault. -/
def State.Safe (s : State) : Prop := ∀ n r, Sys2Proof.core.run n s ≠ .fault r

end Sys2Proof.Machine
end

