-- ==== Sys2Proof/Certificates/Slice0/Obligations.lean ====
section
/-! DEFINITION. The statements for the provers. Each docstring names the rule of spec/ it formalises. Statements about
every state hold in states no run reaches. -/

open Sys2Proof Sys2Proof.Machine

/-! ## Encoding -/

/-- 30_encoding.md section 4: one word of each command, from the opcode map. -/
def Obligations.SampleWordsDecode : Prop :=
  decode 0x01 = .ok (.rd16 .bc) ∧ decode 0x23 = .ok (.wr16 .hl) ∧ decode 0x45 = .ok (.rd8 .e) ∧
  decode 0x66 = .ok (.wr8 .h) ∧ decode 0x82 = .ok (.rdf .h) ∧ decode 0xA3 = .ok (.clrf .c) ∧
  decode 0xC1 = .ok (.setf .n) ∧ decode 0x07 = .error .selectOutOfRange ∧
  decode 0x5F = .error .reservedBits ∧ decode 0xE3 = .error .undefinedClass

/-- The opcode map of 30_encoding.md R79, as the spec prints it, column by column. -/
def Sys2Proof.Machine.opcodeMap : List (Byte × Instr) :=
  [ (0x00, .rd16 .af), (0x01, .rd16 .bc), (0x02, .rd16 .de), (0x03, .rd16 .hl),
    (0x20, .wr16 .af), (0x21, .wr16 .bc), (0x22, .wr16 .de), (0x23, .wr16 .hl) ] ++
  [ (0x40, .rd8 .a), (0x41, .rd8 .f), (0x42, .rd8 .b), (0x43, .rd8 .c),
    (0x44, .rd8 .d), (0x45, .rd8 .e), (0x46, .rd8 .h), (0x47, .rd8 .l),
    (0x60, .wr8 .a), (0x61, .wr8 .f), (0x62, .wr8 .b), (0x63, .wr8 .c),
    (0x64, .wr8 .d), (0x65, .wr8 .e), (0x66, .wr8 .h), (0x67, .wr8 .l) ] ++
  [ (0x80, .rdf .z), (0x81, .rdf .n), (0x82, .rdf .h), (0x83, .rdf .c),
    (0xA0, .clrf .z), (0xA1, .clrf .n), (0xA2, .clrf .h), (0xA3, .clrf .c),
    (0xC0, .setf .z), (0xC1, .setf .n), (0xC2, .setf .h), (0xC3, .setf .c) ]

/-- 30_encoding.md section 4 (the opcode map): the decoder reads a command from a word exactly where the map lists it, the map has 36 words,
and a word belongs to the one match/mask row of its command, or to none where it is illegal. -/
def Obligations.OpcodeMapIsTheDecoder : Prop :=
  (∀ w i, decode w = .ok i ↔ (w, i) ∈ opcodeMap) ∧
  (opcodeMap.map Prod.fst).Nodup ∧ opcodeMap.length = 36 ∧
  (∀ w i, decode w = .ok i → (rowsOf w).map OpcodeRow.mnemonic = [(writtenForm i 0).mnemonic]) ∧
  ∀ w e, decode w = .error e → rowsOf w = []

/-- 30_encoding.md R72 to R76: no bit of an encoding is dropped, and each legal word has one meaning. -/
def Obligations.DecodeEncodeAgree : Prop :=
  (∀ i : Instr, i.wellFormed = true → decode (encode i) = .ok i ∧ decodeTableWord 8 (encode i).toNat = some i) ∧
  ∀ w i, decode w = .ok i → encode i = w

/-- 30_encoding.md R80 and 60_exceptions.md R140: an accepted word raises IllegalCommand exactly under one of R80's
three conditions, with the word recorded, cause code 1 and no pair changed; 220 of the 256 words are illegal. -/
def Obligations.IllegalWordsRaiseIllegalCommand : Prop :=
  (∀ s : State, s.pins.rst = false → s.pins.cmdValid = true →
    let w := s.pins.cmd
    let cls := w.extractLsb' 5 3
    let bad := cls = 7 ∨ w.extractLsb' 3 2 ≠ 0 ∨
      (w.getLsbD 2 = true ∧ (cls = 0 ∨ cls = 1 ∨ cls = 4 ∨ cls = 5 ∨ cls = 6))
    (bad → step s = .fault (.illegalCommand w) ∧ (edge s).pairs = s.pairs) ∧
    (¬ bad → ∃ t, step s = .next t)) ∧
  ((List.range 256).filter fun n => (decodeTableWord 8 n).isNone).length = 220 ∧
  ∀ w, causeCode (.illegalCommand w) = 1

/-- 41_flags.md R129: a flag-class word with sel[2] or a reserved bit set is the out-of-range flag index: it faults and
touches no bit. -/
def Obligations.OutOfRangeFlagIndexIsRejected : Prop :=
  ∀ s : State, s.pins.rst = false → s.pins.cmdValid = true →
    (s.pins.cmd.extractLsb' 5 3 = 4 ∨ s.pins.cmd.extractLsb' 5 3 = 5 ∨ s.pins.cmd.extractLsb' 5 3 = 6) →
    (s.pins.cmd.getLsbD 2 = true ∨ s.pins.cmd.extractLsb' 3 2 ≠ 0) →
    step s = .fault (.illegalCommand s.pins.cmd) ∧ (edge s).pairs = s.pairs

/-! ## The step -/

/-- A step at a decodable accepted word is exec of the decoded instruction, and then the collaborator's next cycle (an
idle one where it has none left: log entry 1) stands at the ports. -/
def Obligations.StepRunsDecodedInstruction : Prop :=
  ∀ (s : State) (i : Instr), s.pins.rst = false → s.pins.cmdValid = true → decode s.pins.cmd = .ok i →
    step s = afterCycle (exec i s) ∧
    ∀ t, exec i s = .next t →
      step s = .next { t with pins := t.pending.headD PortIn.idle, pending := t.pending.tail }

/-- The word the host places is the word the next step runs (log entry 7). -/
def Obligations.PlacedWordRuns : Prop :=
  ∀ (s : State) (i : Instr),
    step (s.withFetchWord 8 (encode i).toNat) =
      afterCycle (exec i { s with pins := ⟨false, true, encode i, s.pins.din⟩ })

/-- 70_reset_and_hazards.md R160, R161: a cycle with rst = 1 loads all four pairs whatever command is presented and
whatever cmd_valid is, with err 0; the command is dropped, and what stands at the ports next is the collaborator's next
cycle; the step model's response is Ack; and no other event writes more than one pair. -/
def Obligations.ResetCycleLoadsParameters : Prop :=
  (∀ s : State, s.pins.rst = true →
    (outputs s).err = false ∧
    ∃ t, step s = .next t ∧
      t.pairs.af = s.params.af ∧ t.pairs.bc = s.params.bc ∧ t.pairs.de = s.params.de ∧ t.pairs.hl = s.params.hl ∧
      t.out.err = false ∧ t.params = s.params ∧
      t.pending = s.pending.tail ∧ ∀ c cs, s.pending = c :: cs → t.pins = c) ∧
  (∀ p x, (ByteFile.step p x .reset).2 = .ack) ∧
  ∀ s t : State, s.pins.rst = false → step s = .next t →
    ∃ p, ∀ q, q ≠ p → t.pairs.get q = s.pairs.get q

/-- 70_reset_and_hazards.md section 4 and 30_encoding.md section 1: with no accepted command err is 0 and dout is the
next unspecified value (the model's choice of a free value: log entry 4), and a cycle with cmd_valid = 0 and rst = 0
changes no pair (the idle cycle that follows the last one presented is the model's choice: log entry 1). -/
def Obligations.CycleWithoutCommand : Prop :=
  ∀ s : State, s.pins.rst = true ∨ s.pins.cmdValid = false →
    outputs s = ⟨Config.freeDout s.draws, false⟩ ∧
    ∃ t, step s = .next t ∧ t.out = ⟨Config.freeDout s.draws, false⟩ ∧ t.draws = s.draws + 1 ∧
      (s.pins.rst = false → t.pairs = s.pairs) ∧ t.params = s.params ∧
      t.pins = s.pending.headD PortIn.idle ∧ t.pending = s.pending.tail

/-! ## Pair and half access -/

/-- 40_pair_access.md R100: RD16, with its frame: no state written. -/
def Obligations.Rd16ReadsThePair : Prop :=
  (∀ p w, decode w = .ok (.rd16 p) ↔ w = 0x00 + p.index.setWidth 8) ∧
  (∀ w : Byte, w.extractLsb' 5 3 = 0 → (w.getLsbD 2 = true ∨ w.extractLsb' 3 2 ≠ 0) → ∃ e, decode w = .error e) ∧
  ∀ (p : PairName) (s : State), ∃ t, exec (.rd16 p) s = .next t ∧
    t.out = ⟨(match p with | .af => s.pairs.af | .bc => s.pairs.bc | .de => s.pairs.de | .hl => s.pairs.hl), false⟩ ∧
    t.pairs = s.pairs ∧ SameSurroundings s t

/-- 40_pair_access.md R101: WR16, with its frame: the other pairs, and the flags unless the pair is AF. -/
def Obligations.Wr16WritesThePair : Prop :=
  (∀ p w, decode w = .ok (.wr16 p) ↔ w = 0x20 + p.index.setWidth 8) ∧
  ∀ (p : PairName) (s : State), ∃ t, exec (.wr16 p) s = .next t ∧
    (∀ q, t.pairs.get q = if q = p then s.pins.din else s.pairs.get q) ∧
    (∀ f, t.pairs.readFlag f = if p = .af then s.pins.din.getLsbD f.bit else s.pairs.readFlag f) ∧
    t.out = ⟨0x0000, false⟩ ∧ SameSurroundings s t

/-- 40_pair_access.md R102: RD8, the pair and the byte taken from the half's index as R102 takes them. -/
def Obligations.Rd8ReadsTheHalf : Prop :=
  (∀ r w, decode w = .ok (.rd8 r) ↔ w = 0x40 + r.index.setWidth 8) ∧
  ∀ (r : HalfName) (s : State), ∃ t, exec (.rd8 r) s = .next t ∧
    (let v := s.pairs.get (PairName.ofIndex (r.index.extractLsb' 1 2))
     t.out = ⟨(if r.index.getLsbD 0 then v.extractLsb' 0 8 else v.extractLsb' 8 8).setWidth 16, false⟩) ∧
    t.pairs = s.pairs ∧ SameSurroundings s t

/-- 40_pair_access.md R103: WR8, with its frame: the other byte, the other pairs, the flags unless the half is F;
din[15:8] appears nowhere. -/
def Obligations.Wr8WritesTheHalf : Prop :=
  (∀ r w, decode w = .ok (.wr8 r) ↔ w = 0x60 + r.index.setWidth 8) ∧
  ∀ (r : HalfName) (s : State), ∃ t, exec (.wr8 r) s = .next t ∧
    (∀ q, t.pairs.get q =
      if q = PairName.ofIndex (r.index.extractLsb' 1 2) then
        (if r.index.getLsbD 0 then (s.pairs.get q).extractLsb' 8 8 ++ s.pins.din.extractLsb' 0 8
         else s.pins.din.extractLsb' 0 8 ++ (s.pairs.get q).extractLsb' 0 8)
      else s.pairs.get q) ∧
    (∀ f, t.pairs.readFlag f = if r = .f then s.pins.din.getLsbD f.bit else s.pairs.readFlag f) ∧
    t.out = ⟨0x0000, false⟩ ∧ SameSurroundings s t

/-- 10_state.md R22, R23, R25: the high and low bytes, and the eight halves as fixed projections of the pairs. -/
def Obligations.HalvesAreFixedProjections : Prop :=
  (∀ v : Word, highByte v = ((v >>> 8) &&& 0xFF).setWidth 8 ∧ lowByte v = (v &&& 0xFF).setWidth 8) ∧
  ∀ x : Pairs,
    x.readHalf .a = highByte x.af ∧ x.readHalf .f = lowByte x.af ∧
    x.readHalf .b = highByte x.bc ∧ x.readHalf .c = lowByte x.bc ∧
    x.readHalf .d = highByte x.de ∧ x.readHalf .e = lowByte x.de ∧
    x.readHalf .h = highByte x.hl ∧ x.readHalf .l = lowByte x.hl

/-- 40_pair_access.md R104, through the command port. -/
def Obligations.PairWriteThenReads : Prop :=
  ∀ (s : State) (p : PairName) (v d : Word),
    (∃ t, core.run 2 (s.present [.ofInstr (.wr16 p) v, .ofInstr (.rd16 p) d]) = .next t ∧ t.out = ⟨v, false⟩) ∧
    (∃ t, core.run 2 (s.present [.ofInstr (.wr16 p) v, .ofInstr (.rd8 p.highHalf) d]) = .next t ∧
      t.out = ⟨(v.extractLsb' 8 8).setWidth 16, false⟩) ∧
    ∃ t, core.run 2 (s.present [.ofInstr (.wr16 p) v, .ofInstr (.rd8 p.lowHalf) d]) = .next t ∧
      t.out = ⟨(v.extractLsb' 0 8).setWidth 16, false⟩

/-- 40_pair_access.md R105: both halves written, in either order, then the pair read. -/
def Obligations.HalvesWrittenInEitherOrder : Prop :=
  ∀ (s : State) (p : PairName) (h l d : Word),
    (∃ t, core.run 3 (s.present [.ofInstr (.wr8 p.highHalf) h, .ofInstr (.wr8 p.lowHalf) l, .ofInstr (.rd16 p) d]) =
        .next t ∧ t.out = ⟨h.extractLsb' 0 8 ++ l.extractLsb' 0 8, false⟩) ∧
    ∃ t, core.run 3 (s.present [.ofInstr (.wr8 p.lowHalf) l, .ofInstr (.wr8 p.highHalf) h, .ofInstr (.rd16 p) d]) =
        .next t ∧ t.out = ⟨h.extractLsb' 0 8 ++ l.extractLsb' 0 8, false⟩

/-- 40_pair_access.md R106 and 20_memory.md R56: an 8-bit write changes exactly the 8 bits of its half. -/
def Obligations.HalfWriteLeavesOtherHalves : Prop :=
  ∀ (s : State) (r : HalfName), ∃ t, exec (.wr8 r) s = .next t ∧
    t.pairs.readHalf r = s.pins.din.extractLsb' 0 8 ∧
    ∀ r', r' ≠ r → t.pairs.readHalf r' = s.pairs.readHalf r'

/-- 40_pair_access.md section 3 (writes and other pairs): a write to one pair, through any view, changes no other pair; a read changes none. -/
def Obligations.WritesStayInTheirPair : Prop :=
  ∀ (i : Instr) (s : State), ∃ t, exec i s = .next t ∧
    ∀ q, writeTarget i ≠ some q → t.pairs.get q = s.pairs.get q

/-- 40_pair_access.md R108: the byte-order check. -/
def Obligations.ByteOrderCheck : Prop :=
  ∀ (s : State) (p : PairName) (d : Word),
    (∃ t, core.run 2 (s.present [.ofInstr (.wr16 p) 0xABCD, .ofInstr (.rd8 p.highHalf) d]) = .next t ∧
      t.out = ⟨0x00AB, false⟩) ∧
    ∃ t, core.run 2 (s.present [.ofInstr (.wr16 p) 0xABCD, .ofInstr (.rd8 p.lowHalf) d]) = .next t ∧
      t.out = ⟨0x00CD, false⟩

/-! ## The flags view -/

/-- 10_state.md section 3 and 30_encoding.md R76: each flag's bit and mask, by the table and by the select, and a flag
reads as its bit of F. -/
def Obligations.FlagTable : Prop :=
  (FlagName.z.bit = 7 ∧ FlagName.n.bit = 6 ∧ FlagName.h.bit = 5 ∧ FlagName.c.bit = 4) ∧
  (FlagName.z.mask = 0x80 ∧ FlagName.n.mask = 0x40 ∧ FlagName.h.mask = 0x20 ∧ FlagName.c.mask = 0x10) ∧
  (∀ f : FlagName, f.bit = 7 - f.index.toNat ∧ f.mask = 0x80#8 >>> f.index.toNat) ∧
  ∀ (x : Pairs) (f : FlagName), x.readFlag f = x.af.getLsbD f.bit

/-- 41_flags.md R120: RDF, with its frame: no state written. -/
def Obligations.RdfReadsTheFlag : Prop :=
  (∀ f w, decode w = .ok (.rdf f) ↔ w = 0x80 + f.index.setWidth 8) ∧
  (∀ w : Byte, w.extractLsb' 5 3 = 4 → (w.getLsbD 2 = true ∨ w.extractLsb' 3 2 ≠ 0) → ∃ e, decode w = .error e) ∧
  ∀ (f : FlagName) (s : State), ∃ t, exec (.rdf f) s = .next t ∧
    t.out = ⟨(if s.pairs.af.extractLsb' 0 8 &&& (0x80#8 >>> f.index.toNat) ≠ 0 then 0x0001 else 0x0000), false⟩ ∧
    t.out = ⟨(if s.pairs.af.getLsbD (7 - f.index.toNat) then 0x0001 else 0x0000), false⟩ ∧
    t.pairs = s.pairs ∧ SameSurroundings s t

/-- 41_flags.md R121: SETF, with its frame: A, the other flags, F[3:0] and the other pairs. -/
def Obligations.SetfTurnsTheFlagOn : Prop :=
  (∀ f w, decode w = .ok (.setf f) ↔ w = 0xC0 + f.index.setWidth 8) ∧
  ∀ (f : FlagName) (s : State), ∃ t, exec (.setf f) s = .next t ∧
    t.pairs = { s.pairs with
      af := s.pairs.af.extractLsb' 8 8 ++ (s.pairs.af.extractLsb' 0 8 ||| (0x80#8 >>> f.index.toNat)) } ∧
    (∀ g, t.pairs.readFlag g = if g = f then true else s.pairs.readFlag g) ∧
    t.pairs.af.extractLsb' 0 4 = s.pairs.af.extractLsb' 0 4 ∧
    t.out = ⟨0x0000, false⟩ ∧ SameSurroundings s t

/-- 41_flags.md R122: CLRF, with its frame: A, the other flags, F[3:0] and the other pairs. -/
def Obligations.ClrfTurnsTheFlagOff : Prop :=
  (∀ f w, decode w = .ok (.clrf f) ↔ w = 0xA0 + f.index.setWidth 8) ∧
  ∀ (f : FlagName) (s : State), ∃ t, exec (.clrf f) s = .next t ∧
    t.pairs = { s.pairs with
      af := s.pairs.af.extractLsb' 8 8 ++ (s.pairs.af.extractLsb' 0 8 &&& ~~~(0x80#8 >>> f.index.toNat)) } ∧
    (∀ g, t.pairs.readFlag g = if g = f then false else s.pairs.readFlag g) ∧
    t.pairs.af.extractLsb' 0 4 = s.pairs.af.extractLsb' 0 4 ∧
    t.out = ⟨0x0000, false⟩ ∧ SameSurroundings s t

/-- One row of the table of closed forms in 41_flags.md section 1: what command i leaves in F and drives on dout, A and the other pairs kept. -/
def Sys2Proof.Machine.FlagRow (i : Instr) (newF : Byte → Byte) (dout : Byte → Word) : Prop :=
  ∀ s : State, ∃ t, exec i s = .next t ∧
    t.pairs = { s.pairs with af := s.pairs.af.extractLsb' 8 8 ++ newF (s.pairs.af.extractLsb' 0 8) } ∧
    t.out = ⟨dout (s.pairs.af.extractLsb' 0 8), false⟩

/-- 41_flags.md section 1 (the closed forms): the twelve flag commands in closed form, with their words. -/
def Obligations.FlagCommandsClosedForm : Prop :=
  (decode 0x80 = .ok (.rdf .z) ∧ FlagRow (.rdf .z) id fun v => (v.extractLsb' 7 1).setWidth 16) ∧
  (decode 0x81 = .ok (.rdf .n) ∧ FlagRow (.rdf .n) id fun v => (v.extractLsb' 6 1).setWidth 16) ∧
  (decode 0x82 = .ok (.rdf .h) ∧ FlagRow (.rdf .h) id fun v => (v.extractLsb' 5 1).setWidth 16) ∧
  (decode 0x83 = .ok (.rdf .c) ∧ FlagRow (.rdf .c) id fun v => (v.extractLsb' 4 1).setWidth 16) ∧
  (decode 0xA0 = .ok (.clrf .z) ∧ FlagRow (.clrf .z) (· &&& 0x7F) fun _ => 0x0000) ∧
  (decode 0xA1 = .ok (.clrf .n) ∧ FlagRow (.clrf .n) (· &&& 0xBF) fun _ => 0x0000) ∧
  (decode 0xA2 = .ok (.clrf .h) ∧ FlagRow (.clrf .h) (· &&& 0xDF) fun _ => 0x0000) ∧
  (decode 0xA3 = .ok (.clrf .c) ∧ FlagRow (.clrf .c) (· &&& 0xEF) fun _ => 0x0000) ∧
  (decode 0xC0 = .ok (.setf .z) ∧ FlagRow (.setf .z) (· ||| 0x80) fun _ => 0x0000) ∧
  (decode 0xC1 = .ok (.setf .n) ∧ FlagRow (.setf .n) (· ||| 0x40) fun _ => 0x0000) ∧
  (decode 0xC2 = .ok (.setf .h) ∧ FlagRow (.setf .h) (· ||| 0x20) fun _ => 0x0000) ∧
  (decode 0xC3 = .ok (.setf .c) ∧ FlagRow (.setf .c) (· ||| 0x10) fun _ => 0x0000)

/-- 41_flags.md R124, through the command port. -/
def Obligations.FlagWriteThenRead : Prop :=
  ∀ (s : State) (f : FlagName) (d e : Word),
    (∃ t, core.run 2 (s.present [.ofInstr (.setf f) d, .ofInstr (.rdf f) e]) = .next t ∧ t.out = ⟨0x0001, false⟩) ∧
    ∃ t, core.run 2 (s.present [.ofInstr (.clrf f) d, .ofInstr (.rdf f) e]) = .next t ∧ t.out = ⟨0x0000, false⟩

/-- 41_flags.md R125: SETF f and CLRF f change at most bit 7 - f of F in the whole 64-bit state. -/
def Obligations.FlagMutationChangesOneBit : Prop :=
  ∀ (f : FlagName) (s : State) (i : Instr), i = .setf f ∨ i = .clrf f →
    ∃ t, exec i s = .next t ∧
      (∀ (q : PairName) (b : Nat), ¬ (q = .af ∧ b = 7 - f.index.toNat) →
        (t.pairs.get q).getLsbD b = (s.pairs.get q).getLsbD b) ∧
      (∀ g, g ≠ f → t.pairs.readFlag g = s.pairs.readFlag g) ∧
      t.pairs.af.extractLsb' 0 4 = s.pairs.af.extractLsb' 0 4 ∧
      t.pairs.af.extractLsb' 8 8 = s.pairs.af.extractLsb' 8 8 ∧
      t.pairs.bc = s.pairs.bc ∧ t.pairs.de = s.pairs.de ∧ t.pairs.hl = s.pairs.hl

/-- 41_flags.md R126: a flag turned on, or off, twice leaves the same F as once. -/
def Obligations.FlagMutationIsIdempotent : Prop :=
  ∀ (f : FlagName) (s : State) (i : Instr) (d e : Word), i = .setf f ∨ i = .clrf f →
    ∃ t u, core.run 1 (s.present [.ofInstr i d, .ofInstr i e]) = .next t ∧
      core.run 2 (s.present [.ofInstr i d, .ofInstr i e]) = .next u ∧
      u.pairs.flagByte = t.pairs.flagByte

/-- 41_flags.md R127: the source's worked example. -/
def Obligations.WorkedFlagExample : Prop :=
  ∀ (s : State) (d : Word), s.pairs.flagByte = 0b0011_1111#8 →
    let cs := [PortIn.command 0xC0 d, PortIn.command 0x80 d, PortIn.command 0xA0 d, PortIn.command 0x80 d]
    ∃ t₁ t₂ t₃ t₄,
      core.run 1 (s.present cs) = .next t₁ ∧ t₁.pairs.flagByte = 0b1011_1111#8 ∧
      core.run 2 (s.present cs) = .next t₂ ∧ t₂.out = ⟨0x0001, false⟩ ∧
      core.run 3 (s.present cs) = .next t₃ ∧ t₃.pairs.flagByte = 0b0011_1111#8 ∧
      core.run 4 (s.present cs) = .next t₄ ∧ t₄.out = ⟨0x0000, false⟩

/-- 41_flags.md section 3 (the defect that is not replicated): the N, H and C mutators never change bit 7 of F, and
each changes its own bit. -/
def Obligations.MutatorsUseTheirOwnMask : Prop :=
  ∀ (f : FlagName) (s : State) (on : Bool), f ≠ .z →
    ∃ t, exec (setfv f on) s = .next t ∧ t.pairs.af.getLsbD 7 = s.pairs.af.getLsbD 7 ∧
      t.pairs.af.getLsbD (7 - f.index.toNat) = on

/-- 10_state.md section 3 (which commands write F and which read it): SETF and CLRF write one flag each, WR8 F and
WR16 AF all eight bits, reset loads RESET_AF[7:0], nothing else writes F; RDF reads one flag, RD8 F the byte, RD16 AF the
byte in bits 7:0, and no other command's result depends on F. -/
def Obligations.WhoWritesAndReadsF : Prop :=
  (∀ (i : Instr) (s t : State), exec i s = .next t → t.pairs.flagByte ≠ s.pairs.flagByte →
    (∃ f, i = .setf f ∨ i = .clrf f) ∨ i = .wr8 .f ∨ i = .wr16 .af) ∧
  (∀ (f g : FlagName) (s : State), (∃ t, exec (.setf f) s = .next t ∧ (g ≠ f → t.pairs.readFlag g = s.pairs.readFlag g)) ∧
    ∃ t, exec (.clrf f) s = .next t ∧ (g ≠ f → t.pairs.readFlag g = s.pairs.readFlag g)) ∧
  (∀ s : State, (∃ t, exec (.wr8 .f) s = .next t ∧ t.pairs.flagByte = s.pins.din.extractLsb' 0 8) ∧
    ∃ t, exec (.wr16 .af) s = .next t ∧ t.pairs.flagByte = s.pins.din.extractLsb' 0 8) ∧
  (∀ s : State, s.pins.rst = true →
    ∃ t, step s = .next t ∧ t.pairs.flagByte = s.params.af.extractLsb' 0 8) ∧
  (∀ s : State, (∃ t, exec (.rd8 .f) s = .next t ∧ t.out.dout = s.pairs.flagByte.setWidth 16) ∧
    (∃ t, exec (.rd16 .af) s = .next t ∧ t.out.dout.extractLsb' 0 8 = s.pairs.flagByte) ∧
    ∀ f, ∃ t, exec (.rdf f) s = .next t ∧ t.out.dout = if s.pairs.flagByte.getLsbD f.bit then 0x0001 else 0x0000) ∧
  ∀ (i : Instr) (s : State) (v : Byte), (∀ f, i ≠ .rdf f) → i ≠ .rd8 .f → i ≠ .rd16 .af →
    ∃ t u, exec i s = .next t ∧ exec i { s with pairs := s.pairs.setFlagByte v } = .next u ∧ u.out = t.out

/-! ## Operands, results, idempotence -/

/-- 30_encoding.md R77: WR16 takes din unchanged, WR8 takes din[7:0], and no other bit of din has any effect. -/
def Obligations.DinOperands : Prop :=
  (∀ (p : PairName) (s : State), ∃ t, exec (.wr16 p) s = .next t ∧ t.pairs.get p = s.pins.din) ∧
  (∀ (r : HalfName) (s : State), ∃ t, exec (.wr8 r) s = .next t ∧ t.pairs.readHalf r = s.pins.din.extractLsb' 0 8) ∧
  ∀ (i : Instr) (s : State) (d : Word),
    (∀ p, i = .wr16 p → d = s.pins.din) → (∀ r, i = .wr8 r → d.extractLsb' 0 8 = s.pins.din.extractLsb' 0 8) →
    ∃ t u, exec i s = .next t ∧ exec i { s with pins := { s.pins with din := d } } = .next u ∧
      u.pairs = t.pairs ∧ u.out = t.out

/-- The dout column of 30_encoding.md R78's table, in the bits of the pairs. -/
def Sys2Proof.Machine.resultTable (x : Pairs) : Instr → Word
  | .rd16 p => x.get p
  | .rd8 r => (x.readHalf r).setWidth 16
  | .rdf f => if x.af.getLsbD (7 - f.index.toNat) then 0x0001 else 0x0000
  | .wr16 _ | .wr8 _ | .clrf _ | .setf _ => 0x0000

/-- 30_encoding.md R78: dout and err of every accepted command, from the state before the edge; the model's outputs in
the cycle and its record of them after the edge agree with the table; the read commands write nothing, and the write
commands return 0x0000. -/
def Obligations.ResultAssembly : Prop :=
  ∀ s : State, s.pins.rst = false → s.pins.cmdValid = true →
    (∀ i, decode s.pins.cmd = .ok i →
      outputs s = ⟨resultTable s.pairs i, false⟩ ∧
      ∃ t, step s = .next t ∧ t.out = ⟨resultTable s.pairs i, false⟩ ∧
        (writeTarget i = none → t.pairs = s.pairs) ∧ (writeTarget i ≠ none → t.out.dout = 0x0000)) ∧
    ∀ e, decode s.pins.cmd = .error e → outputs s = ⟨0x0000, true⟩ ∧ (edge s).out = ⟨0x0000, true⟩

/-- 30_encoding.md section 1 (R71): the outputs computed before the edge are the ones recorded after it, and the model's
step, where it answers a next state, is the hardware's edge. -/
def Obligations.OutputsMatchTheEdge : Prop :=
  (∀ s : State, (edge s).out = outputs s) ∧
  ∀ s t : State, step s = .next t → t = edge s

/-- 60_exceptions.md section 4 (R146): err is not sticky; it is a function of the ports in the current cycle alone, 1
exactly for an accepted illegal word. -/
def Obligations.ErrDependsOnTheCurrentCycle : Prop :=
  ∀ s : State, (outputs s).err = (!s.pins.rst && s.pins.cmdValid && !legalWord s.pins.cmd)

/-- 20_memory.md R59: a read changes nothing, and repeating a command with the same operand leaves the same pairs and
gives the same response. -/
def Obligations.CommandsAreIdempotent : Prop :=
  ∀ (i : Instr) (s : State), ∃ t u, exec i s = .next t ∧ exec i t = .next u ∧
    u.pairs = t.pairs ∧ u.out = t.out ∧ (writeTarget i = none → t.pairs = s.pairs)

/-- 60_exceptions.md section 5 (R152): four RD16 commands observe the whole state and change nothing. -/
def Obligations.FourReadsObserveTheState : Prop :=
  ∀ (s : State) (d : Word),
    let cs := [PortIn.ofInstr (.rd16 .af) d, .ofInstr (.rd16 .bc) d, .ofInstr (.rd16 .de) d, .ofInstr (.rd16 .hl) d]
    ∃ t₁ t₂ t₃ t₄,
      core.run 1 (s.present cs) = .next t₁ ∧ core.run 2 (s.present cs) = .next t₂ ∧
      core.run 3 (s.present cs) = .next t₃ ∧ core.run 4 (s.present cs) = .next t₄ ∧
      t₄.pairs = s.pairs ∧
      s.pairs = ⟨t₁.out.dout, t₂.out.dout, t₃.out.dout, t₄.out.dout⟩

/-- 30_encoding.md section 5 (R83): SETFV sets its flag to its argument and keeps the other flags; RDFLAGS shows the
four flags in bits 7:4 of its result. -/
def Obligations.PseudoInstructions : Prop :=
  (∀ (f : FlagName) (on : Bool) (s : State), ∃ t, exec (setfv f on) s = .next t ∧
    ∀ g, t.pairs.readFlag g = if g = f then on else s.pairs.readFlag g) ∧
  ∀ s : State, ∃ t, exec rdflags s = .next t ∧ ∀ f, t.out.dout.getLsbD f.bit = s.pairs.readFlag f

/-! ## Exceptions and safety -/

/-- 60_exceptions.md R141: an accepted illegal word leaves every pair, shows err 1 and dout 0x0000, answers
Fault(IllegalCommand, cmd) in the step model, and faults the run for good. -/
def Obligations.IllegalCommandFaultsTheRun : Prop :=
  ∀ (s : State) (e : Illegal), s.pins.rst = false → s.pins.cmdValid = true → decode s.pins.cmd = .error e →
    (edge s).pairs = s.pairs ∧ outputs s = ⟨0x0000, true⟩ ∧
    (ByteFile.ofPairs s.pairs).step s.params (.cmd s.pins.cmd s.pins.din) =
      (ByteFile.ofPairs s.pairs, .fault s.pins.cmd) ∧
    ∀ n, core.run (n + 1) s = .fault (.illegalCommand s.pins.cmd)

/-- 60_exceptions.md R142: no legal command raises any exception, for every din and every state. -/
def Obligations.LegalCommandsNeverFault : Prop :=
  (∀ (i : Instr) (s : State), ∃ t, exec i s = .next t) ∧
  ∀ s : State, s.pins.legal = true → ∃ t, step s = .next t

/-- An illegal word after any number of legal cycles faults the run at that word, whatever follows it
(60_exceptions.md sections 1 and 4). -/
def Obligations.FirstIllegalWordFaultsTheSequence : Prop :=
  ∀ (s : State) (pre post : List PortIn) (c : PortIn) (k : Nat),
    pre.all PortIn.legal = true → c.legal = false →
    core.run (pre.length + 1 + k) (s.present (pre ++ c :: post)) = .fault (.illegalCommand c.cmd)

/-- From any state with legal inputs every step answers a next state whose inputs are legal and whose err is 0: the
invariant of a run that never reaches IllegalCommand (60_exceptions.md section 1). After the last cycle presented the
model presents idle ones, which are legal (the model's choice: log entry 1). -/
def Obligations.LegalInputsAreKept : Prop :=
  ∀ s : State, s.Inv → ∃ t, step s = .next t ∧ t.Inv

/-- The invariant holds at reset, for every choice of parameters. -/
def Obligations.ResetHasLegalInputs : Prop :=
  State.reset.Inv ∧ ∀ p, (State.resetWith p).Inv

/-- A machine whose inputs are legal never faults and runs for any number of cycles (60_exceptions.md section 1; idle
cycles after the last one presented: log entry 1). -/
def Obligations.LegalInputsAreSafe : Prop :=
  ∀ s : State, s.inputsLegal = true → s.Safe ∧ ∀ n, ∃ t, core.run n s = .next t

/-- 00_scope.md section 4, 10_state.md section 1: a step changes only the pairs, the outputs, the free-value counter and
the ports; the parameters never change, and the ports move to the next cycle (the ports and the counter are the model's
own: log entries 1 and 4). -/
def Obligations.StepFrame : Prop :=
  ∀ s t : State, step s = .next t →
    t.params = s.params ∧ t.pins = s.pending.headD PortIn.idle ∧ t.pending = s.pending.tail ∧
    (t.draws = if s.pins.rst || !s.pins.cmdValid then s.draws + 1 else s.draws) ∧
    (s.pins.rst = false → s.pins.cmdValid = false → t.pairs = s.pairs)

/-! ## Reset -/

/-- 10_state.md R39: the state after reset, for every piece of state the rule gives a value: the pairs, the halves and
the flags by the parameters, zero by default, and err 0. -/
def Obligations.StateAfterReset : Prop :=
  (∀ p : ResetParams,
    let s := State.resetWith p
    s.pairs = ⟨p.af, p.bc, p.de, p.hl⟩ ∧
    s.pairs.readHalf .a = p.af.extractLsb' 8 8 ∧ s.pairs.readHalf .f = p.af.extractLsb' 0 8 ∧
    s.pairs.readFlag .z = p.af.getLsbD 7 ∧ s.pairs.readFlag .n = p.af.getLsbD 6 ∧
    s.pairs.readFlag .h = p.af.getLsbD 5 ∧ s.pairs.readFlag .c = p.af.getLsbD 4 ∧
    s.pairs.flagByte.extractLsb' 0 4 = p.af.extractLsb' 0 4 ∧
    s.out.err = false) ∧
  State.reset = State.resetWith ⟨0x0000, 0x0000, 0x0000, 0x0000⟩ ∧
  State.reset.pairs = ⟨0x0000, 0x0000, 0x0000, 0x0000⟩ ∧ ∀ f, State.reset.pairs.readFlag f = false

/-- 70_reset_and_hazards.md section 2 (R164): from power-on, whatever the cells hold (free: log entry 5), one reset cycle
leaves the reset values. -/
def Obligations.BootReset : Prop :=
  ∀ (p : ResetParams) (x : Pairs),
    ∃ t, core.run 1 ({ State.powerOn p with pairs := x }.present [PortIn.reset]) = .next t ∧
      t.pairs = (State.resetWith p).pairs ∧ t.out.err = false

/-! ## The whole machine -/

/-- 10_state.md section 2 (R24) and 00_scope.md section 5 (R12): the machine and the spec's step function over eight
separate bytes agree in every cycle, on the state and on the response. -/
def Obligations.StepModelAgrees : Prop :=
  ∀ s : State,
    match s.pins.input? with
    | none => (edge s).pairs = s.pairs ∧ ∃ t, step s = .next t
    | some i =>
      let r := (ByteFile.ofPairs s.pairs).step s.params i
      ByteFile.ofPairs (edge s).pairs = r.1 ∧
      match r.2 with
      | .val v => (outputs s = ⟨v, false⟩) ∧ ∃ t, step s = .next t
      | .ack => (outputs s).err = false ∧ (i ≠ .reset → (outputs s).dout = 0x0000) ∧ ∃ t, step s = .next t
      | .fault w => outputs s = ⟨0x0000, true⟩ ∧ step s = .fault (.illegalCommand w)

/-- 20_memory.md section 6 (R62): the pairs after any sequence of legal cycles are the composition of the step model over
the resets and accepted commands among them, in order; the hardware's edges do the same through illegal words. -/
def Obligations.SequencesCompose : Prop :=
  (∀ (cs : List PortIn) (s : State), cs.all PortIn.legal = true →
    ∃ t, core.run cs.length (s.present cs) = .next t ∧
      ByteFile.ofPairs t.pairs = (ByteFile.ofPairs s.pairs).runInputs s.params (cs.filterMap PortIn.input?)) ∧
  ∀ (cs : List PortIn) (s : State),
    ByteFile.ofPairs (edge^[cs.length] (s.present cs)).pairs =
      (ByteFile.ofPairs s.pairs).runInputs s.params (cs.filterMap PortIn.input?)

/-- 10_state.md section 4 (R38): no hidden state. The pairs after a step depend on the pairs, the ports and the
parameters alone, not on what was shown before or on any unspecified value. -/
def Obligations.NoHiddenState : Prop :=
  ∀ s u : State, u.pairs = s.pairs → u.pins = s.pins → u.params = s.params →
    (edge u).pairs = (edge s).pairs ∧
    (∀ t, step s = .next t → ∃ v, step u = .next v ∧ v.pairs = t.pairs) ∧
    (∀ r, step s = .fault r → step u = .fault r) ∧
    (s.pins.rst = false → s.pins.cmdValid = true → outputs u = outputs s)
end

