-- ==== Sys2Proof/Laws/Decode.lean ====
section
/-! SUPPORT. The decoder against the legality conditions of 30_encoding.md R80, and the index maps. -/

namespace Sys2Proof

@[simp] theorem PairName.ofIndex_index (p : PairName) : PairName.ofIndex p.index = p := by cases p <;> rfl

@[simp] theorem HalfName.ofIndex_index (r : HalfName) : HalfName.ofIndex r.index = r := by cases r <;> rfl

@[simp] theorem FlagName.ofIndex_index (f : FlagName) : FlagName.ofIndex f.index = f := by cases f <;> rfl

/-- The decoder reads a command exactly from a legal word. -/
theorem decode_isOk_eq_legalWord (w : Byte) : (decode w).isOk = legalWord w := by
  revert w; decide +revert

/-- A legal word decodes to some command. -/
theorem decode_of_legalWord {w : Byte} (h : legalWord w = true) : ∃ i, decode w = .ok i := by
  have := decode_isOk_eq_legalWord w
  cases hd : decode w with
  | ok i => exact ⟨i, rfl⟩
  | error e => simp [hd, h, Except.isOk, Except.toBool] at this

/-- An illegal word is refused by the decoder, with one of the three reasons. -/
theorem decode_of_illegalWord {w : Byte} (h : legalWord w = false) : ∃ e, decode w = .error e := by
  have := decode_isOk_eq_legalWord w
  cases hd : decode w with
  | ok i => simp [hd, h, Except.isOk, Except.toBool] at this
  | error e => exact ⟨e, rfl⟩

/-- A word the decoder reads a command from is legal. -/
theorem legalWord_of_decode_ok {w : Byte} {i : Instr} (h : decode w = .ok i) : legalWord w = true := by
  rw [← decode_isOk_eq_legalWord, h]; rfl

/-- A word the decoder refuses is illegal. -/
theorem legalWord_of_decode_error {w : Byte} {e : Illegal} (h : decode w = .error e) : legalWord w = false := by
  rw [← decode_isOk_eq_legalWord, h]; rfl

end Sys2Proof
end

