-- ==== Sys2Proof/Laws/Ops.lean ====
section
/-! SUPPORT. What each shared operation over the pairs does, said once: bytes, cells, halves, flags. -/

namespace Sys2Proof.Machine

/-! ## Bytes -/

/-- Bit b of a word is bit b of its low byte or bit b - 8 of its high byte. -/
theorem getLsbD_joinBytes (h l : Byte) (b : Nat) :
    (joinBytes h l).getLsbD b = if b < 8 then l.getLsbD b else h.getLsbD (b - 8) := by
  unfold joinBytes
  exact BitVec.getLsbD_append.trans (by by_cases hb : b < 8 <;> simp [hb])

theorem getLsbD_lowByte (v : Word) (b : Nat) : (lowByte v).getLsbD b = (decide (b < 8) && v.getLsbD b) := by
  simp [lowByte]

theorem getLsbD_highByte (v : Word) (b : Nat) : (highByte v).getLsbD b = (decide (b < 8) && v.getLsbD (b + 8)) := by
  simp [highByte, Nat.add_comm]

@[simp] theorem highByte_joinBytes (h l : Byte) : highByte (joinBytes h l) = h := by
  apply BitVec.eq_of_getLsbD_eq
  intro i hi
  rw [getLsbD_highByte, getLsbD_joinBytes]
  simp [hi]

@[simp] theorem lowByte_joinBytes (h l : Byte) : lowByte (joinBytes h l) = l := by
  apply BitVec.eq_of_getLsbD_eq
  intro i hi
  rw [getLsbD_lowByte, getLsbD_joinBytes]
  simp [hi]

@[simp] theorem joinBytes_highByte_lowByte (v : Word) : joinBytes (highByte v) (lowByte v) = v := by
  apply BitVec.eq_of_getLsbD_eq
  intro i hi
  rw [getLsbD_joinBytes, getLsbD_highByte, getLsbD_lowByte]
  by_cases h : i < 8
  · simp [h]
  · simp [h, show i - 8 < 8 by omega, show i - 8 + 8 = i by omega]

/-- A word is its two bytes. -/
theorem word_ext {v w : Word} (h : highByte v = highByte w) (l : lowByte v = lowByte w) : v = w := by
  rw [← joinBytes_highByte_lowByte v, ← joinBytes_highByte_lowByte w, h, l]

/-! ## Cells -/

/-- A written cell reads as the value written, and every other cell as before. -/
theorem Pairs.get_set (x : Pairs) (p q : PairName) (v : Word) :
    (x.set p v).get q = if q = p then v else x.get q := by
  cases p <;> cases q <;> rfl

@[simp] theorem Pairs.get_set_same (x : Pairs) (p : PairName) (v : Word) : (x.set p v).get p = v := by
  simp [Pairs.get_set]

/-- Four pairs are equal when every cell is. -/
theorem Pairs.ext_get {x y : Pairs} (h : ∀ q, x.get q = y.get q) : x = y := by
  have ha : x.af = y.af := h .af
  have hb : x.bc = y.bc := h .bc
  have hd : x.de = y.de := h .de
  have hh : x.hl = y.hl := h .hl
  cases x; cases y; simp_all

/-! ## Halves -/

/-- A half write changes its own pair, by the byte written and the byte kept, and no other pair. -/
theorem Pairs.get_writeHalf (x : Pairs) (r : HalfName) (v : Byte) (q : PairName) :
    (x.writeHalf r v).get q =
      if q = r.pair then
        (if r.isHigh then joinBytes v (lowByte (x.get q)) else joinBytes (highByte (x.get q)) v)
      else x.get q := by
  cases r <;> cases q <;> rfl

/-- A half write through the half view. -/
theorem Pairs.readHalf_writeHalf (x : Pairs) (r r' : HalfName) (v : Byte) :
    (x.writeHalf r v).readHalf r' = if r' = r then v else x.readHalf r' := by
  cases r <;> cases r' <;>
    simp [Pairs.readHalf, Pairs.writeHalf, HalfName.isHigh, HalfName.pair, Pairs.get, Pairs.set]

/-- A pair is its two halves. -/
theorem Pairs.get_eq_halves (x : Pairs) (p : PairName) :
    x.get p = joinBytes (x.readHalf p.highHalf) (x.readHalf p.lowHalf) := by
  cases p <;> simp [Pairs.readHalf, PairName.highHalf, PairName.lowHalf, HalfName.isHigh, HalfName.pair]

/-! ## Flags -/

/-- A byte has a flag's mask bit exactly when its bit is 1. -/
theorem and_mask_ne_zero (v : Byte) (f : FlagName) : (v &&& f.mask != 0x00#8) = v.getLsbD f.bit := by
  revert v; cases f <;> decide

/-- Turning a flag on in a byte sets its bit and keeps the others. -/
theorem getLsbD_or_mask (v : Byte) (f : FlagName) (b : Nat) :
    (v ||| f.mask).getLsbD b = if b = f.bit then true else v.getLsbD b := by
  by_cases h : b < 8
  · revert v; cases f <;> interval_cases b <;> decide
  · have hb : b ≠ f.bit := by cases f <;> simp [FlagName.bit] <;> omega
    simp [hb, BitVec.getLsbD_of_ge _ b (by omega : 8 ≤ b)]

/-- Turning a flag off in a byte clears its bit and keeps the others. -/
theorem getLsbD_and_not_mask (v : Byte) (f : FlagName) (b : Nat) :
    (v &&& ~~~f.mask).getLsbD b = if b = f.bit then false else v.getLsbD b := by
  by_cases h : b < 8
  · revert v; cases f <;> interval_cases b <;> decide
  · have hb : b ≠ f.bit := by cases f <;> simp [FlagName.bit] <;> omega
    simp [hb, BitVec.getLsbD_of_ge _ b (by omega : 8 ≤ b)]

/-- A flag reads as its bit of the low byte of AF. -/
theorem Pairs.readFlag_eq_bit (x : Pairs) (f : FlagName) : x.readFlag f = x.flagByte.getLsbD f.bit :=
  and_mask_ne_zero _ _

@[simp] theorem Pairs.flagByte_setFlagByte (x : Pairs) (v : Byte) : (x.setFlagByte v).flagByte = v := by
  simp [Pairs.flagByte, Pairs.setFlagByte]

theorem FlagName.bit_injective {f g : FlagName} : g.bit = f.bit ↔ g = f := by
  cases f <;> cases g <;> decide

/-- What turning a flag on leaves every flag. -/
theorem Pairs.readFlag_flagOn (x : Pairs) (f g : FlagName) :
    (x.flagOn f).readFlag g = if g = f then true else x.readFlag g := by
  simp only [Pairs.readFlag_eq_bit, Pairs.flagOn, Pairs.flagByte_setFlagByte, getLsbD_or_mask, FlagName.bit_injective]

/-- What turning a flag off leaves every flag. -/
theorem Pairs.readFlag_flagOff (x : Pairs) (f g : FlagName) :
    (x.flagOff f).readFlag g = if g = f then false else x.readFlag g := by
  simp only [Pairs.readFlag_eq_bit, Pairs.flagOff, Pairs.flagByte_setFlagByte, getLsbD_and_not_mask,
    FlagName.bit_injective]

/-- A flag mutation writes AF alone. -/
theorem Pairs.get_setFlagByte (x : Pairs) (v : Byte) (q : PairName) :
    (x.setFlagByte v).get q = if q = .af then joinBytes (highByte x.af) v else x.get q := by
  cases q <;> rfl

end Sys2Proof.Machine
end

