-- ==== Sys2Proof/Laws/PerInstr.lean ====
section
/-! SUPPORT. Statements about every instruction as syntax, one lemma per constructor. -/

namespace Sys2Proof.Laws.LegalEncoding

/-- The word of an instruction is a legal command word: none of 30_encoding.md R80's conditions holds of it. -/
def Statement (i : Instr) : Prop := legalWord (encode i) = true

theorem rd16 (p : PairName) : Statement (.rd16 p) := by cases p <;> rfl

theorem wr16 (p : PairName) : Statement (.wr16 p) := by cases p <;> rfl

theorem rd8 (r : HalfName) : Statement (.rd8 r) := by cases r <;> rfl

theorem wr8 (r : HalfName) : Statement (.wr8 r) := by cases r <;> rfl

theorem rdf (f : FlagName) : Statement (.rdf f) := by cases f <;> rfl

theorem clrf (f : FlagName) : Statement (.clrf f) := by cases f <;> rfl

theorem setf (f : FlagName) : Statement (.setf f) := by cases f <;> rfl

end Sys2Proof.Laws.LegalEncoding
end

