-- ==== Sys2Proof/Laws/State.lean ====
section
/-! SUPPORT. One lemma per field per update of State, each true by rfl, so that no later proof unfolds an update. -/

namespace Sys2Proof.Machine

@[simp] theorem State.respond_pairs (s : State) (v : Word) : (s.respond v).pairs = s.pairs := rfl
@[simp] theorem State.respond_params (s : State) (v : Word) : (s.respond v).params = s.params := rfl
@[simp] theorem State.respond_pins (s : State) (v : Word) : (s.respond v).pins = s.pins := rfl
@[simp] theorem State.respond_pending (s : State) (v : Word) : (s.respond v).pending = s.pending := rfl
@[simp] theorem State.respond_out (s : State) (v : Word) : (s.respond v).out = { dout := v, err := false } := rfl
@[simp] theorem State.respond_draws (s : State) (v : Word) : (s.respond v).draws = s.draws := rfl

@[simp] theorem State.commit_pairs (s : State) (x : Pairs) : (s.commit x).pairs = x := rfl
@[simp] theorem State.commit_params (s : State) (x : Pairs) : (s.commit x).params = s.params := rfl
@[simp] theorem State.commit_pins (s : State) (x : Pairs) : (s.commit x).pins = s.pins := rfl
@[simp] theorem State.commit_pending (s : State) (x : Pairs) : (s.commit x).pending = s.pending := rfl
@[simp] theorem State.commit_out (s : State) (x : Pairs) : (s.commit x).out = { dout := 0x0000, err := false } := rfl
@[simp] theorem State.commit_draws (s : State) (x : Pairs) : (s.commit x).draws = s.draws := rfl

@[simp] theorem State.showIllegal_pairs (s : State) : s.showIllegal.pairs = s.pairs := rfl
@[simp] theorem State.showIllegal_params (s : State) : s.showIllegal.params = s.params := rfl
@[simp] theorem State.showIllegal_pins (s : State) : s.showIllegal.pins = s.pins := rfl
@[simp] theorem State.showIllegal_pending (s : State) : s.showIllegal.pending = s.pending := rfl
@[simp] theorem State.showIllegal_out (s : State) : s.showIllegal.out = { dout := 0x0000, err := true } := rfl
@[simp] theorem State.showIllegal_draws (s : State) : s.showIllegal.draws = s.draws := rfl

@[simp] theorem State.unspecifiedOut_pairs (s : State) : s.unspecifiedOut.pairs = s.pairs := rfl
@[simp] theorem State.unspecifiedOut_params (s : State) : s.unspecifiedOut.params = s.params := rfl
@[simp] theorem State.unspecifiedOut_pins (s : State) : s.unspecifiedOut.pins = s.pins := rfl
@[simp] theorem State.unspecifiedOut_pending (s : State) : s.unspecifiedOut.pending = s.pending := rfl
@[simp] theorem State.unspecifiedOut_out (s : State) : s.unspecifiedOut.out = { dout := Config.freeDout s.draws, err := false } := rfl
@[simp] theorem State.unspecifiedOut_draws (s : State) : s.unspecifiedOut.draws = s.draws + 1 := rfl

@[simp] theorem State.acceptReset_pairs (s : State) : s.acceptReset.pairs = resetPairs s.params := rfl
@[simp] theorem State.acceptReset_params (s : State) : s.acceptReset.params = s.params := rfl
@[simp] theorem State.acceptReset_pins (s : State) : s.acceptReset.pins = s.pins := rfl
@[simp] theorem State.acceptReset_pending (s : State) : s.acceptReset.pending = s.pending := rfl
@[simp] theorem State.acceptReset_out (s : State) : s.acceptReset.out = { dout := Config.freeDout s.draws, err := false } := rfl
@[simp] theorem State.acceptReset_draws (s : State) : s.acceptReset.draws = s.draws + 1 := rfl

@[simp] theorem State.idleCycle_pairs (s : State) : s.idleCycle.pairs = s.pairs := rfl
@[simp] theorem State.idleCycle_params (s : State) : s.idleCycle.params = s.params := rfl
@[simp] theorem State.idleCycle_pins (s : State) : s.idleCycle.pins = s.pins := rfl
@[simp] theorem State.idleCycle_pending (s : State) : s.idleCycle.pending = s.pending := rfl
@[simp] theorem State.idleCycle_out (s : State) : s.idleCycle.out = { dout := Config.freeDout s.draws, err := false } := rfl
@[simp] theorem State.idleCycle_draws (s : State) : s.idleCycle.draws = s.draws + 1 := rfl

@[simp] theorem State.advance_pairs (s : State) : s.advance.pairs = s.pairs := rfl
@[simp] theorem State.advance_params (s : State) : s.advance.params = s.params := rfl
@[simp] theorem State.advance_pins (s : State) : s.advance.pins = s.pending.headD PortIn.idle := rfl
@[simp] theorem State.advance_pending (s : State) : s.advance.pending = s.pending.tail := rfl
@[simp] theorem State.advance_out (s : State) : s.advance.out = s.out := rfl
@[simp] theorem State.advance_draws (s : State) : s.advance.draws = s.draws := rfl

@[simp] theorem State.present_pairs (s : State) (cs : List PortIn) : (s.present cs).pairs = s.pairs := rfl
@[simp] theorem State.present_params (s : State) (cs : List PortIn) : (s.present cs).params = s.params := rfl
@[simp] theorem State.present_pins (s : State) (cs : List PortIn) : (s.present cs).pins = cs.headD PortIn.idle := rfl
@[simp] theorem State.present_pending (s : State) (cs : List PortIn) : (s.present cs).pending = cs.tail := rfl
@[simp] theorem State.present_out (s : State) (cs : List PortIn) : (s.present cs).out = s.out := rfl
@[simp] theorem State.present_draws (s : State) (cs : List PortIn) : (s.present cs).draws = s.draws := rfl

/-- The cycle after the last presented one is the rest of the list. -/
theorem State.advance_present_cons (s : State) (c : PortIn) (cs : List PortIn) :
    (s.present (c :: cs)).advance = s.present cs := rfl

end Sys2Proof.Machine
end

