-- ==== Sys2Proof/Laws/Step.lean ====
section
/-! SUPPORT. What exec, a cycle and a step can do, said once: the frame of every command, and the cases of a cycle. -/

namespace Sys2Proof.Machine

/-- Whatever a command does, it answers a state that differs from the one before in the pairs and the outputs only, and
that shows err 0. -/
theorem exec_frame {i : Instr} {s t : State} (h : exec i s = .next t) :
    SameSurroundings s t ∧ t.out.err = false := by
  cases i <;> cases h <;> exact ⟨⟨rfl, rfl, rfl, rfl⟩, rfl⟩

/-- A command with no target leaves the pairs. -/
theorem exec_read_pairs {i : Instr} {s t : State} (h : exec i s = .next t) (hi : writeTarget i = none) :
    t.pairs = s.pairs := by
  cases i <;> first | (cases hi; done) | (cases h; rfl)

/-- A command reads the pairs and din alone: two states that agree on them get the same pairs and outputs. -/
theorem exec_congr {i : Instr} {s u t v : State} (hp : u.pairs = s.pairs) (hd : u.pins.din = s.pins.din)
    (h : exec i s = .next t) (h' : exec i u = .next v) : v.pairs = t.pairs ∧ v.out = t.out := by
  cases i <;> cases h <;> cases h' <;>
    simp [hp, hd, State.din16, State.din8]

/-- The four things a cycle can be. -/
theorem cycle_cases (s : State) :
    (s.pins.rst = true ∧ cycle s = .next s.acceptReset) ∨
    (s.pins.rst = false ∧ s.pins.cmdValid = false ∧ cycle s = .next s.idleCycle) ∨
    (∃ i, s.pins.rst = false ∧ s.pins.cmdValid = true ∧ decode s.pins.cmd = .ok i ∧ cycle s = exec i s) ∨
    (∃ e, s.pins.rst = false ∧ s.pins.cmdValid = true ∧ decode s.pins.cmd = .error e ∧
      cycle s = .fault (.illegalCommand s.pins.cmd)) := by
  unfold cycle
  cases hr : s.pins.rst
  · cases hv : s.pins.cmdValid
    · exact .inr (.inl ⟨rfl, rfl, rfl⟩)
    · cases hd : decode s.pins.cmd with
      | ok i => exact .inr (.inr (.inl ⟨i, rfl, rfl, rfl, rfl⟩))
      | error e => exact .inr (.inr (.inr ⟨e, rfl, rfl, rfl, rfl⟩))
  · exact .inl ⟨rfl, rfl⟩

/-- A cycle that answers a next state leaves the ports and the parameters to the edge, and shows err 0. -/
theorem cycle_frame {s t : State} (h : cycle s = .next t) :
    t.params = s.params ∧ t.pins = s.pins ∧ t.pending = s.pending ∧ t.out.err = false := by
  rcases cycle_cases s with ⟨-, hc⟩ | ⟨-, -, hc⟩ | ⟨i, -, -, -, hc⟩ | ⟨e, -, -, -, hc⟩ <;> rw [hc] at h
  · cases h; exact ⟨rfl, rfl, rfl, rfl⟩
  · cases h; exact ⟨rfl, rfl, rfl, rfl⟩
  · have := exec_frame h
    exact ⟨this.1.1, this.1.2.1, this.1.2.2.1, this.2⟩
  · cases h

/-- A step answers a next state exactly where its cycle does, with the collaborator's next cycle at the ports. -/
theorem step_eq_next_iff {s u : State} : step s = .next u ↔ ∃ t, cycle s = .next t ∧ u = t.advance := by
  unfold step afterCycle
  cases cycle s <;> simp [eq_comm]

/-- A run of one more step, from a step that answers a next state. -/
theorem run_succ_of_step {s t : State} (h : step s = .next t) (n : Nat) :
    core.run (n + 1) s = core.run n t := by
  have hc : core.step s = .next t := h
  simp only [Host.Core.run, hc]

/-- One presented command of a run: the command's effect, and the rest of the cycles presented to what it leaves. -/
theorem run_present_command {s t : State} {w : Byte} {d : Word} {i : Instr} {cs : List PortIn}
    (hd : decode w = .ok i) (h : exec i (s.present (.command w d :: cs)) = .next t) (n : Nat) :
    core.run (n + 1) (s.present (.command w d :: cs)) = core.run n (t.present cs) := by
  have hc : cycle (s.present (.command w d :: cs)) = .next t := by
    simp [cycle, PortIn.command, hd] at h ⊢
    exact h
  have hp : t.pending = cs := (exec_frame h).1.2.2.1
  rw [run_succ_of_step (step_eq_next_iff.2 ⟨t, hc, rfl⟩), State.advance, State.present, hp]

end Sys2Proof.Machine
end

