-- ==== Sys2Proof/Tests/Slice0.lean ====
section
/-! SUPPORT. Small tests on fixed values. Every expected result is taken from the spec: the opcode map and conditions of
30_encoding.md R79 and R80, and the vectors of 95_test_vectors.md, whose ids the comments name. Then the witnesses: for
each statement with hypotheses, a concrete state and operands that meet all of them. -/

namespace Sys2Proof.Tests

open Sys2Proof.Machine

/-- The pairs most vectors start from: AF=12B0 BC=1234 DE=5678 HL=9ABC. -/
def vectorPairs : Pairs := ⟨0x12B0, 0x1234, 0x5678, 0x9ABC⟩

/-- A machine with pairs x, in the cycle that presents word w and data d. -/
def presenting (x : Pairs) (w : Byte) (d : Word) : State :=
  { State.reset with pairs := x, pins := .command w d }

/-- The pairs after a step and the outputs in its cycle; none where the step stops. -/
def observed : Host.Outcome State Fault Refusal → Option (Pairs × PortOut)
  | .next t => some (t.pairs, t.out)
  | _ => none

/-- Whether a step faults with IllegalCommand for the word w. -/
def faultsWith (w : Byte) : Host.Outcome State Fault Refusal → Bool
  | .fault (.illegalCommand v) => v == w
  | _ => false

/-! ## Well-formedness: an ill-formed word for each check, and a legal one -/

theorem test_class_111_is_refused : classDefined 0xE0 = false := by decide

theorem test_reserved_bit_is_refused : reservedClear 0x5F = false := by decide

theorem test_select_out_of_range_is_refused : selectInRange 0x84 = false := by decide

theorem test_half_select_uses_three_bits : legalWord 0x47 = true := by decide

/-- Every instruction term is well-formed (the checks are on words). -/
theorem test_instr_wellFormed : (Instr.setf .c).wellFormed = true := by decide

/-! ## Decoding: words written out bit by bit, class, rsv, select -/

theorem test_decode_rd16 : decode 0b000_00_010#8 = .ok (.rd16 .de) := by decide

theorem test_decode_wr16 : decode 0b001_00_011#8 = .ok (.wr16 .hl) := by decide

theorem test_decode_rd8 : decode 0b010_00_101#8 = .ok (.rd8 .e) := by decide

theorem test_decode_wr8 : decode 0b011_00_110#8 = .ok (.wr8 .h) := by decide

theorem test_decode_rdf : decode 0b100_00_010#8 = .ok (.rdf .h) := by decide

theorem test_decode_clrf : decode 0b101_00_011#8 = .ok (.clrf .c) := by decide

theorem test_decode_setf : decode 0b110_00_001#8 = .ok (.setf .n) := by decide

/-- V95: exactly 36 legal words. -/
theorem test_legal_word_count : ((List.range 256).filter fun n => (decodeTableWord 8 n).isSome).length = 36 := by
  decide +kernel

/-- No word belongs to two rows of the opcode table. -/
theorem test_rows_do_not_overlap :
    ((List.range 256).all fun n => decide ((rowsOf (BitVec.ofNat 8 n)).length ≤ 1)) = true := by
  decide +kernel

/-! ## One step of each command -/

/-- V1. -/
theorem test_rd16_af : observed (step (presenting vectorPairs 0x00 0x0000)) =
    some (vectorPairs, ⟨0x12B0, false⟩) := by decide

/-- V8. -/
theorem test_wr16_hl : observed (step (presenting vectorPairs 0x23 0x00FF)) =
    some (⟨0x12B0, 0x1234, 0x5678, 0x00FF⟩, ⟨0x0000, false⟩) := by decide

/-- V5: the pair is AF, F[3:0] stored as given. -/
theorem test_wr16_af : observed (step (presenting vectorPairs 0x20 0xABCD)) =
    some (⟨0xABCD, 0x1234, 0x5678, 0x9ABC⟩, ⟨0x0000, false⟩) := by decide

/-- V12. -/
theorem test_rd8_f : observed (step (presenting vectorPairs 0x41 0x0000)) =
    some (vectorPairs, ⟨0x00B0, false⟩) := by decide

/-- V17. -/
theorem test_rd8_h : observed (step (presenting vectorPairs 0x46 0x0000)) =
    some (vectorPairs, ⟨0x009A, false⟩) := by decide

/-- V20: the low nibble of F is stored. -/
theorem test_wr8_f : observed (step (presenting vectorPairs 0x61 0x000F)) =
    some (⟨0x120F, 0x1234, 0x5678, 0x9ABC⟩, ⟨0x0000, false⟩) := by decide

/-- V21: din[15:8] is ignored. -/
theorem test_wr8_b : observed (step (presenting vectorPairs 0x62 0xAAFF)) =
    some (⟨0x12B0, 0xFF34, 0x5678, 0x9ABC⟩, ⟨0x0000, false⟩) := by decide

/-- V52. -/
theorem test_rdf_n : observed (step (presenting ⟨0xC35A, 0x1234, 0x5678, 0x9ABC⟩ 0x81 0x0000)) =
    some (⟨0xC35A, 0x1234, 0x5678, 0x9ABC⟩, ⟨0x0001, false⟩) := by decide

/-- V53. -/
theorem test_rdf_h : observed (step (presenting ⟨0xC35A, 0x1234, 0x5678, 0x9ABC⟩ 0x82 0x0000)) =
    some (⟨0xC35A, 0x1234, 0x5678, 0x9ABC⟩, ⟨0x0000, false⟩) := by decide

/-- V46: bit 7 is kept. -/
theorem test_clrf_c : observed (step (presenting ⟨0xC3FF, 0x1234, 0x5678, 0x9ABC⟩ 0xA3 0x0000)) =
    some (⟨0xC3EF, 0x1234, 0x5678, 0x9ABC⟩, ⟨0x0000, false⟩) := by decide

/-- V56. -/
theorem test_clrf_n : observed (step (presenting ⟨0xC35A, 0x1234, 0x5678, 0x9ABC⟩ 0xA1 0x0000)) =
    some (⟨0xC31A, 0x1234, 0x5678, 0x9ABC⟩, ⟨0x0000, false⟩) := by decide

/-- V38: C has its own mask, and din is ignored. -/
theorem test_setf_c : observed (step (presenting ⟨0xC300, 0x1234, 0x5678, 0x9ABC⟩ 0xC3 0xFFFF)) =
    some (⟨0xC310, 0x1234, 0x5678, 0x9ABC⟩, ⟨0x0000, false⟩) := by decide

/-- V59. -/
theorem test_setf_z : observed (step (presenting ⟨0xC35A, 0x1234, 0x5678, 0x9ABC⟩ 0xC0 0x0000)) =
    some (⟨0xC3DA, 0x1234, 0x5678, 0x9ABC⟩, ⟨0x0000, false⟩) := by decide

/-! ## Illegal words, reset, the written form, the step model -/

/-- V73: the out-of-range flag index. -/
theorem test_illegal_flag_index : faultsWith 0x84 (step (presenting vectorPairs 0x84 0xBEEF)) = true := by decide

/-- V71: the hardware's edge leaves the pairs and shows err. -/
theorem test_illegal_edge : (edge (presenting vectorPairs 0x5F 0xBEEF)).pairs = vectorPairs ∧
    (edge (presenting vectorPairs 0x5F 0xBEEF)).out = ⟨0x0000, true⟩ := by decide

/-- V84: reset wins over a command in the same cycle. -/
theorem test_reset_wins :
    (edge { presenting vectorPairs 0x21 0xFFFF with pins := ⟨true, true, 0x21, 0xFFFF⟩ }).pairs = ⟨0, 0, 0, 0⟩ ∧
    (edge { presenting vectorPairs 0x21 0xFFFF with pins := ⟨true, true, 0x21, 0xFFFF⟩ }).out.err = false := by decide

/-- V83: reset values that are not the defaults. -/
theorem test_reset_parameters : (State.resetWith ⟨0x01B0, 0x0013, 0x00D8, 0x014D⟩).pairs =
      ⟨0x01B0, 0x0013, 0x00D8, 0x014D⟩ ∧
    (State.resetWith ⟨0x01B0, 0x0013, 0x00D8, 0x014D⟩).pairs.readFlag .z = true ∧
    (State.resetWith ⟨0x01B0, 0x0013, 0x00D8, 0x014D⟩).pairs.readFlag .n = false := by decide

/-- R83: `WR8 C, imm8`, whose immediate is din[7:0]. -/
theorem test_written_form : writtenForm (.wr8 .c) 0xAAFF = ⟨"WR8", "C", some 0x00FF⟩ := by decide

/-- V22, through the step model over eight bytes. -/
theorem test_step_model : (ByteFile.ofPairs vectorPairs).step {} (.cmd 0x63 0x00FF) =
    (ByteFile.ofPairs ⟨0x12B0, 0x12FF, 0x5678, 0x9ABC⟩, .ack) := by decide

/-! ## Witnesses: the hypotheses of each statement can be met -/

/-- Every row of the opcode table is met, at both ends of its selects. -/
theorem witness_OpcodeMapIsTheDecoder : decode 0x00 = .ok (.rd16 .af) ∧ decode 0x03 = .ok (.rd16 .hl) ∧
    decode 0x47 = .ok (.rd8 .l) ∧ decode 0xC3 = .ok (.setf .c) ∧ decode 0xFF = .error .reservedBits ∧
    decode 0xE0 = .error .undefinedClass := by decide

theorem witness_DecodeEncodeAgree : (Instr.wr8 .l).wellFormed = true ∧ decode 0x67 = .ok (.wr8 .l) := by decide

/-- Each of R80's conditions at the ends of its range, and the legal words beside them. -/
theorem witness_IllegalWordsRaiseIllegalCommand :
    (presenting vectorPairs 0xE0 0).pins.rst = false ∧ (presenting vectorPairs 0xE0 0).pins.cmdValid = true ∧
    (0xE0 : Byte).extractLsb' 5 3 = 7 ∧ (0xFF : Byte).extractLsb' 5 3 = 7 ∧
    (0x08 : Byte).extractLsb' 3 2 ≠ 0 ∧ (0x10 : Byte).extractLsb' 3 2 ≠ 0 ∧
    ((0x04 : Byte).getLsbD 2 = true ∧ (0x04 : Byte).extractLsb' 5 3 = 0) ∧
    ((0xC7 : Byte).getLsbD 2 = true ∧ (0xC7 : Byte).extractLsb' 5 3 = 6) ∧
    legalWord 0x03 = true ∧ legalWord 0x47 = true ∧ legalWord 0xC3 = true := by decide

theorem witness_OutOfRangeFlagIndexIsRejected :
    (presenting vectorPairs 0x84 0).pins.rst = false ∧ (presenting vectorPairs 0x84 0).pins.cmdValid = true ∧
    (presenting vectorPairs 0x84 0).pins.cmd.extractLsb' 5 3 = 4 ∧
    (presenting vectorPairs 0x84 0).pins.cmd.getLsbD 2 = true ∧
    (0xA4 : Byte).extractLsb' 5 3 = 5 ∧ (0xC8 : Byte).extractLsb' 5 3 = 6 ∧
    (0xC8 : Byte).extractLsb' 3 2 ≠ 0 := by decide

theorem witness_StepRunsDecodedInstruction :
    (presenting vectorPairs 0x63 0x00FF).pins.rst = false ∧
    (presenting vectorPairs 0x63 0x00FF).pins.cmdValid = true ∧
    decode (presenting vectorPairs 0x63 0x00FF).pins.cmd = .ok (.wr8 .c) ∧
    ∃ t, exec (.wr8 .c) (presenting vectorPairs 0x63 0x00FF) = .next t :=
  ⟨rfl, rfl, rfl, _, rfl⟩

/-- A reset cycle that presents a command with another cycle after it, and a step without reset. -/
theorem witness_ResetCycleLoadsParameters :
    (({ State.reset with pins := ⟨true, true, 0x21, 0xFFFF⟩, pending := [PortIn.idle] } : State).pins.rst = true) ∧
    (({ State.reset with pins := ⟨true, true, 0x21, 0xFFFF⟩, pending := [PortIn.idle] } : State).pending =
      PortIn.idle :: []) ∧
    (presenting vectorPairs 0x21 0xFFFF).pins.rst = false ∧
    ∃ t, step (presenting vectorPairs 0x21 0xFFFF) = .next t :=
  ⟨rfl, rfl, rfl, _, rfl⟩

theorem witness_CycleWithoutCommand :
    State.reset.pins.cmdValid = false ∧ State.reset.pins.rst = false ∧
    (State.reset.present [PortIn.reset]).pins.rst = true := by decide

theorem witness_Rd16ReadsThePair : (0x04 : Byte).extractLsb' 5 3 = 0 ∧ (0x04 : Byte).getLsbD 2 = true ∧
    (0x1B : Byte).extractLsb' 5 3 = 0 ∧ (0x1B : Byte).extractLsb' 3 2 ≠ 0 := by decide

theorem witness_RdfReadsTheFlag : (0x87 : Byte).extractLsb' 5 3 = 4 ∧ (0x87 : Byte).getLsbD 2 = true ∧
    (0x98 : Byte).extractLsb' 5 3 = 4 ∧ (0x98 : Byte).extractLsb' 3 2 ≠ 0 := by decide

theorem witness_HalfWriteLeavesOtherHalves : HalfName.f ≠ HalfName.a := by decide

/-- A pair that is not the target, for a write of each kind, and a command with no target. -/
theorem witness_WritesStayInTheirPair : writeTarget (.wr16 .hl) ≠ some .de ∧ writeTarget (.wr8 .c) ≠ some .af ∧
    writeTarget (.setf .z) ≠ some .bc ∧ writeTarget (.rdf .z) ≠ some .af := by decide

/-- The bits beside the changed one, the flag beside the changed one, and both forms of the command. -/
theorem witness_FlagMutationChangesOneBit :
    (Instr.setf .c = .setf .c ∨ Instr.setf .c = .clrf .c) ∧ (Instr.clrf .z = .setf .z ∨ Instr.clrf .z = .clrf .z) ∧
    ¬ (PairName.af = .af ∧ 3 = 7 - FlagName.c.index.toNat) ∧ ¬ (PairName.af = .af ∧ 8 = 7 - FlagName.z.index.toNat) ∧
    ¬ (PairName.bc = .af ∧ 7 = 7 - FlagName.z.index.toNat) ∧ FlagName.z ≠ .c := by decide

theorem witness_FlagMutationIsIdempotent : Instr.setf .h = .setf .h ∨ Instr.setf .h = .clrf .h := by decide

theorem witness_WorkedFlagExample :
    ({ State.reset with pairs := ⟨0x003F, 0, 0, 0⟩ } : State).pairs.flagByte = 0b0011_1111#8 := by decide

theorem witness_MutatorsUseTheirOwnMask : FlagName.n ≠ .z ∧ FlagName.c ≠ .z := by decide

/-- A command that changes F, a reset, a flag beside the one written, and a command that does not read F. -/
theorem witness_WhoWritesAndReadsF :
    (∃ t, exec (.wr8 .f) (presenting vectorPairs 0x61 0x000F) = .next t ∧
      t.pairs.flagByte ≠ (presenting vectorPairs 0x61 0x000F).pairs.flagByte) ∧
    (State.reset.present [PortIn.reset]).pins.rst = true ∧ FlagName.n ≠ .z ∧
    (∀ f, Instr.rd8 .a ≠ .rdf f) ∧ Instr.rd8 .a ≠ .rd8 .f ∧ Instr.rd8 .a ≠ .rd16 .af := by
  exact ⟨⟨_, rfl, by decide⟩, by decide, by decide, fun f => by simp, by decide, by decide⟩

/-- din may differ where the command ignores it: all of it for SETF, din[15:8] for WR8, none of it for WR16. -/
theorem witness_DinOperands :
    (∀ p, Instr.setf .z = .wr16 p → (0xFFFF : Word) = (presenting vectorPairs 0xC0 0).pins.din) ∧
    (∀ r, Instr.setf .z = .wr8 r →
      (0xFFFF : Word).extractLsb' 0 8 = (presenting vectorPairs 0xC0 0).pins.din.extractLsb' 0 8) ∧
    (∀ p, Instr.wr8 .c = .wr16 p → (0xAAFF : Word) = (presenting vectorPairs 0x63 0x00FF).pins.din) ∧
    (∀ r, Instr.wr8 .c = .wr8 r →
      (0xAAFF : Word).extractLsb' 0 8 = (presenting vectorPairs 0x63 0x00FF).pins.din.extractLsb' 0 8) ∧
    (∀ p, Instr.wr16 .bc = .wr16 p → (0x00FF : Word) = (presenting vectorPairs 0x21 0x00FF).pins.din) :=
  ⟨fun _ h => (nomatch h), fun _ h => (nomatch h), fun _ h => (nomatch h), fun _ _ => by decide, fun _ _ => rfl⟩

/-- A read whose value is 0x0000, a write, and an illegal word. -/
theorem witness_ResultAssembly :
    (presenting ⟨0, 0, 0, 0⟩ 0x41 0).pins.rst = false ∧ (presenting ⟨0, 0, 0, 0⟩ 0x41 0).pins.cmdValid = true ∧
    decode (presenting ⟨0, 0, 0, 0⟩ 0x41 0).pins.cmd = .ok (.rd8 .f) ∧ writeTarget (.rd8 .f) = none ∧
    decode (presenting vectorPairs 0xC3 0).pins.cmd = .ok (.setf .c) ∧ writeTarget (.setf .c) ≠ none ∧
    decode (presenting vectorPairs 0xE3 0).pins.cmd = .error .undefinedClass := by decide

theorem witness_OutputsMatchTheEdge : ∃ t, step (presenting vectorPairs 0x20 0xABCD) = .next t := ⟨_, rfl⟩

theorem witness_CommandsAreIdempotent : writeTarget (.rd16 .af) = none ∧ writeTarget (.rd8 .f) = none ∧
    writeTarget (.rdf .c) = none := by decide

theorem witness_IllegalCommandFaultsTheRun :
    (presenting vectorPairs 0xE3 0xBEEF).pins.rst = false ∧
    (presenting vectorPairs 0xE3 0xBEEF).pins.cmdValid = true ∧
    decode (presenting vectorPairs 0xE3 0xBEEF).pins.cmd = .error .undefinedClass := by decide

/-- The three ways a cycle is legal. -/
theorem witness_LegalCommandsNeverFault : (presenting vectorPairs 0xC3 0).pins.legal = true ∧
    State.reset.pins.legal = true ∧ ({ PortIn.command 0xFF 0 with rst := true } : PortIn).legal = true := by decide

theorem witness_FirstIllegalWordFaultsTheSequence :
    [PortIn.command 0x61 0x00F0, PortIn.reset].all PortIn.legal = true ∧ (PortIn.command 0xE0 0x1234).legal = false := by
  decide

theorem witness_LegalInputsAreKept :
    (State.reset.present [.command 0x62 0x0012, .command 0x63 0x0034, .reset]).Inv := by decide

theorem witness_LegalInputsAreSafe :
    (State.reset.present [.command 0x62 0x0012, .command 0x63 0x0034]).inputsLegal = true := by decide

/-- A step that draws a free value and one that does not. -/
theorem witness_StepFrame : (∃ t, step State.reset = .next t) ∧ State.reset.pins.rst = false ∧
    State.reset.pins.cmdValid = false ∧ ∃ t, step (presenting vectorPairs 0x00 0) = .next t :=
  ⟨⟨_, rfl⟩, rfl, rfl, _, rfl⟩

theorem witness_SequencesCompose : [PortIn.command 0x20 0x003F, PortIn.idle, PortIn.command 0xC0 0].all PortIn.legal = true := by
  decide

/-- Two states that differ in what is not the block's state, one that steps and one that faults. -/
theorem witness_NoHiddenState :
    ({ presenting vectorPairs 0x20 0xABCD with out := ⟨0xBEEF, true⟩, draws := 7 } : State).pairs =
      (presenting vectorPairs 0x20 0xABCD).pairs ∧
    ({ presenting vectorPairs 0x20 0xABCD with out := ⟨0xBEEF, true⟩, draws := 7 } : State).pins =
      (presenting vectorPairs 0x20 0xABCD).pins ∧
    ({ presenting vectorPairs 0x20 0xABCD with out := ⟨0xBEEF, true⟩, draws := 7 } : State).params =
      (presenting vectorPairs 0x20 0xABCD).params ∧
    (presenting vectorPairs 0x20 0xABCD).pins.rst = false ∧
    (presenting vectorPairs 0x20 0xABCD).pins.cmdValid = true ∧
    (∃ t, step (presenting vectorPairs 0x20 0xABCD) = .next t) ∧
    step (presenting vectorPairs 0xE0 0) = .fault (.illegalCommand 0xE0) :=
  ⟨rfl, rfl, rfl, rfl, rfl, ⟨_, rfl⟩, rfl⟩

/-- The step model takes every branch: no input, a value, an acknowledgement, a fault. -/
theorem witness_StepModelAgrees : PortIn.idle.input? = none ∧
    ((ByteFile.ofPairs vectorPairs).step {} (.cmd 0x01 0)).2 = .val 0x1234 ∧
    ((ByteFile.ofPairs vectorPairs).step {} .reset).2 = .ack ∧
    ((ByteFile.ofPairs vectorPairs).step {} (.cmd 0xE0 0)).2 = .fault 0xE0 := by decide

end Sys2Proof.Tests
end

section
/-! PROOFS. The views of the pairs as the spec's own formulas (10_state.md sections 2, 3 and 5): the bytes by shift and
mask, the halves by pair, the flags by bits of AF, and the state after reset. -/

namespace Sys2Proof.Machine

/-! ## Bytes by shift and mask -/

/-- Cutting a word to a byte makes the mask 0xFF of no effect. -/
theorem setWidth_and_byteMask (v : Word) : (v &&& 0xFF).setWidth 8 = v.setWidth 8 := by
  rw [BitVec.setWidth_and]
  exact BitVec.and_allOnes

/-- 10_state.md R22, in the source's form. -/
theorem highByte_eq_shift_and_mask (v : Word) : highByte v = ((v >>> 8) &&& 0xFF).setWidth 8 := by
  rw [setWidth_and_byteMask]
  exact BitVec.setWidth_ushiftRight_eq_extractLsb.symm

/-- 10_state.md R23, in the source's form. -/
theorem lowByte_eq_and_mask (v : Word) : lowByte v = (v &&& 0xFF).setWidth 8 := by
  rw [setWidth_and_byteMask]
  exact (BitVec.setWidth_eq_extractLsb' (by decide)).symm

/-! ## Halves by pair -/

/-- The half at the high byte of a pair (10_state.md R25). -/
theorem Pairs.readHalf_highHalf (x : Pairs) (p : PairName) : x.readHalf p.highHalf = highByte (x.get p) := by
  cases p <;> rfl

/-- The half at the low byte of a pair (10_state.md R25). -/
theorem Pairs.readHalf_lowHalf (x : Pairs) (p : PairName) : x.readHalf p.lowHalf = lowByte (x.get p) := by
  cases p <;> rfl

/-! ## Flags by bits of AF -/

theorem FlagName.bit_lt_eight (f : FlagName) : f.bit < 8 := by cases f <;> decide

/-- 10_state.md R30, R31: a flag is its bit of AF, because F is the low byte of AF. -/
theorem Pairs.readFlag_eq_af_bit (x : Pairs) (f : FlagName) : x.readFlag f = x.af.getLsbD f.bit := by
  rw [Pairs.readFlag_eq_bit, Pairs.flagByte, getLsbD_lowByte]
  simp [FlagName.bit_lt_eight f]

/-- F[3:0] are the bits 3:0 of AF (10_state.md R30). -/
theorem Pairs.flagByte_low_bits (x : Pairs) : x.flagByte.extractLsb' 0 4 = x.af.extractLsb' 0 4 :=
  BitVec.extractLsb'_extractLsb'_of_le (by decide)

/-! ## The state after reset -/

@[simp] theorem State.resetWith_pairs (p : ResetParams) :
    (State.resetWith p).pairs = ⟨p.af, p.bc, p.de, p.hl⟩ := rfl

@[simp] theorem State.resetWith_out_err (p : ResetParams) : (State.resetWith p).out.err = false := rfl

/-- The default of every parameter is 0x0000 (00_scope.md R8). -/
theorem State.reset_eq_resetWith_zero : State.reset = State.resetWith ⟨0x0000, 0x0000, 0x0000, 0x0000⟩ := rfl

/-- No flag is true after a reset with the default parameters (10_state.md R39). -/
theorem State.reset_readFlag (f : FlagName) : State.reset.pairs.readFlag f = false := by
  rw [Pairs.readFlag_eq_af_bit, State.reset_eq_resetWith_zero, State.resetWith_pairs]
  exact BitVec.getLsbD_zero

/-- Settles O14: the bytes in their shift and mask form, then each half as the high or low half of its pair. -/
theorem halvesAreFixedProjections : Obligations.HalvesAreFixedProjections := by
  unfold Obligations.HalvesAreFixedProjections
  refine ⟨fun v => ⟨highByte_eq_shift_and_mask v, lowByte_eq_and_mask v⟩, fun x => ?_⟩
  exact ⟨x.readHalf_highHalf .af, x.readHalf_lowHalf .af, x.readHalf_highHalf .bc, x.readHalf_lowHalf .bc,
    x.readHalf_highHalf .de, x.readHalf_lowHalf .de, x.readHalf_highHalf .hl, x.readHalf_lowHalf .hl⟩

/-- Settles O45: each view of the reset pairs is the view of its parameter, and the defaults are zero. -/
theorem stateAfterReset : Obligations.StateAfterReset := by
  unfold Obligations.StateAfterReset
  refine ⟨fun p => ?_, State.reset_eq_resetWith_zero, ?_, State.reset_readFlag⟩
  · exact ⟨State.resetWith_pairs p, Pairs.readHalf_highHalf _ .af, Pairs.readHalf_lowHalf _ .af,
      Pairs.readFlag_eq_af_bit _ .z, Pairs.readFlag_eq_af_bit _ .n, Pairs.readFlag_eq_af_bit _ .h,
      Pairs.readFlag_eq_af_bit _ .c, Pairs.flagByte_low_bits _, State.resetWith_out_err p⟩
  · rw [State.reset_eq_resetWith_zero, State.resetWith_pairs]

end Sys2Proof.Machine
end

section
/-! PROOFS. Access to the cells (20_memory.md): a write repeated with the same operand writes what already stands
there, and a read repeated sees the pairs it left (R59). -/

namespace Sys2Proof.Machine

/-! ## Writing twice -/

@[simp] theorem Pairs.set_set (x : Pairs) (p : PairName) (v w : Word) : (x.set p v).set p w = x.set p w := by
  cases p <;> rfl

@[simp] theorem Pairs.writeHalf_writeHalf (x : Pairs) (r : HalfName) (v w : Byte) :
    (x.writeHalf r v).writeHalf r w = x.writeHalf r w := by
  cases hr : r.isHigh <;> simp [Pairs.writeHalf, hr]

@[simp] theorem Pairs.setFlagByte_setFlagByte (x : Pairs) (v w : Byte) :
    (x.setFlagByte v).setFlagByte w = x.setFlagByte w := by
  simp [Pairs.setFlagByte]

/-- Turning a flag on is idempotent, because a mask put in twice is put in once (41_flags.md R121). -/
@[simp] theorem Pairs.flagOn_flagOn (x : Pairs) (f : FlagName) : (x.flagOn f).flagOn f = x.flagOn f := by
  simp [Pairs.flagOn, BitVec.or_assoc]

/-- Turning a flag off is idempotent, because a mask taken out twice is taken out once (41_flags.md R122). -/
@[simp] theorem Pairs.flagOff_flagOff (x : Pairs) (f : FlagName) : (x.flagOff f).flagOff f = x.flagOff f := by
  simp [Pairs.flagOff, BitVec.and_assoc]

/-! ## Repeating a command -/

/-- Every command completes in every state (60_exceptions.md R142). -/
theorem exec_exists_next (i : Instr) (s : State) : ∃ t, exec i s = .next t := by
  cases i <;> exact ⟨_, rfl⟩

/-- A repeated write finds its own value: the pairs stay, and both times the response is Ack. -/
theorem exec_write_repeated {i : Instr} {p : PairName} {s t u : State} (hi : writeTarget i = some p)
    (h : exec i s = .next t) (h' : exec i t = .next u) : u.pairs = t.pairs ∧ u.out = t.out := by
  cases i with
  | rd16 | rd8 | rdf => cases hi
  | wr16 q => cases h; cases h'; exact ⟨Pairs.set_set _ q _ _, rfl⟩
  | wr8 r => cases h; cases h'; exact ⟨Pairs.writeHalf_writeHalf _ r _ _, rfl⟩
  | clrf f => cases h; cases h'; exact ⟨Pairs.flagOff_flagOff _ f, rfl⟩
  | setf f => cases h; cases h'; exact ⟨Pairs.flagOn_flagOn _ f, rfl⟩

/-- A repeated read sees the pairs and the din of the first one. -/
theorem exec_read_repeated {i : Instr} {s t u : State} (hi : writeTarget i = none)
    (h : exec i s = .next t) (h' : exec i t = .next u) : u.pairs = t.pairs ∧ u.out = t.out := by
  obtain ⟨⟨-, hpins, -, -⟩, -⟩ := exec_frame h
  exact exec_congr (exec_read_pairs h hi) (congrArg PortIn.din hpins) h h'

/-- Settles O35: a command writes no pair and reads the same again, or writes one and finds its own value there. -/
theorem commandsAreIdempotent : Obligations.CommandsAreIdempotent := by
  unfold Obligations.CommandsAreIdempotent
  intro i s
  obtain ⟨t, ht⟩ := exec_exists_next i s
  obtain ⟨u, hu⟩ := exec_exists_next i t
  have hsame : u.pairs = t.pairs ∧ u.out = t.out := by
    cases hi : writeTarget i with
    | none => exact exec_read_repeated hi ht hu
    | some p => exact exec_write_repeated hi ht hu
  exact ⟨t, u, ht, hu, hsame.1, hsame.2, exec_read_pairs ht⟩

end Sys2Proof.Machine
end

section
/-! PROOFS. What an accepted word does (30_encoding.md): the words R80 makes illegal and what they raise, the bits of
din a command takes (R77), and the outputs it shows (R78). -/

namespace Sys2Proof

/-! ## R80's conditions on the fields of the word -/

/-- R80, first condition, on the class field: its three bits are all 1. -/
theorem classDefined_eq_false_iff (w : Byte) : classDefined w = false ↔ classField w = 7 := by
  have hbits : classDefined w =
      !((classField w).getLsbD 2 && (classField w).getLsbD 1 && (classField w).getLsbD 0) := by
    simp [classDefined, classField]
  rw [hbits]
  generalize classField w = c
  revert c; decide

/-- R80, second condition, on the rsv field. -/
theorem reservedClear_eq_false_iff (w : Byte) : reservedClear w = false ↔ rsvField w ≠ 0 := by
  have hbits : reservedClear w = (!(rsvField w).getLsbD 1 && !(rsvField w).getLsbD 0) := by
    simp [reservedClear, rsvField]
  rw [hbits]
  generalize rsvField w = r
  revert r; decide

/-- R80, third condition, on sel[2] and the class field: only the half classes 010 and 011 use sel[2]. -/
theorem selectInRange_eq_false_iff (w : Byte) :
    selectInRange w = false ↔ selTop w = true ∧ classField w ≠ 2 ∧ classField w ≠ 3 := by
  have hbits : selectInRange w = ((!(classField w).getLsbD 2 && (classField w).getLsbD 1) || !selTop w) := by
    simp [selectInRange, classField, selTop]
  rw [hbits]
  generalize classField w = c, selTop w = b
  revert c b; decide

/-- The classes that are neither 111 nor a half class. -/
theorem short_class_iff (c : BitVec 3) :
    c ≠ 7 ∧ c ≠ 2 ∧ c ≠ 3 ↔ c = 0 ∨ c = 1 ∨ c = 4 ∨ c = 5 ∨ c = 6 := by
  revert c; decide

/-- A word is illegal exactly under one of R80's three conditions. -/
theorem legalWord_eq_false_iff (w : Byte) :
    legalWord w = false ↔
      classField w = 7 ∨ rsvField w ≠ 0 ∨
        (selTop w = true ∧
          (classField w = 0 ∨ classField w = 1 ∨ classField w = 4 ∨ classField w = 5 ∨ classField w = 6)) := by
  rw [← short_class_iff, legalWord, Bool.and_eq_false_iff, Bool.and_eq_false_iff, classDefined_eq_false_iff,
    reservedClear_eq_false_iff, selectInRange_eq_false_iff]
  tauto

/-- 30_encoding.md R80: 220 of the 256 words are no command. -/
theorem illegal_word_count : ((List.range 256).filter fun n => (decodeTableWord 8 n).isNone).length = 220 := by
  decide +kernel

/-- The select of a flag counts its bit down from bit 7 of F (30_encoding.md R76). -/
theorem FlagName.bit_eq_seven_sub_index (f : FlagName) : f.bit = 7 - f.index.toNat := by cases f <;> rfl

end Sys2Proof

namespace Sys2Proof.Machine

/-! ## The cycle of an accepted word -/

/-- An accepted word of a command is performed, and the collaborator's next cycle stands at the ports. -/
theorem step_of_exec {i : Instr} {s t : State} (hr : s.pins.rst = false) (hv : s.pins.cmdValid = true)
    (hd : decode s.pins.cmd = .ok i) (h : exec i s = .next t) : step s = .next t.advance := by
  simp [step, cycle, hr, hv, hd, h, afterCycle]

/-- The outputs in the cycle of an accepted command. -/
theorem outputs_of_decode_ok {i : Instr} {s : State} (hr : s.pins.rst = false) (hv : s.pins.cmdValid = true)
    (hd : decode s.pins.cmd = .ok i) : outputs s = ⟨doutOf s.pairs i, false⟩ := by
  simp [outputs, hr, hv, hd]

/-! An accepted word the decoder refuses: the run is faulted (60_exceptions.md R141), and the hardware's edge shows
err 1 and goes on (R145, R146). -/

section IllegalWord
variable {e : Illegal} {s : State} (hr : s.pins.rst = false) (hv : s.pins.cmdValid = true)
  (hd : decode s.pins.cmd = .error e)
include hr hv hd

theorem cycle_of_decode_error : cycle s = .fault (.illegalCommand s.pins.cmd) := by
  simp [cycle, hr, hv, hd, raiseIllegalCommand]

theorem step_of_decode_error : step s = .fault (.illegalCommand s.pins.cmd) := by
  rw [step, cycle_of_decode_error hr hv hd, afterCycle]

theorem edge_of_decode_error : edge s = s.showIllegal.advance := by
  simp only [edge, cycle_of_decode_error hr hv hd]

theorem outputs_of_decode_error : outputs s = ⟨0x0000, true⟩ := by
  simp [outputs, hr, hv, hd]

end IllegalWord

/-- Settles O4: R80's conditions are the decoder's refusal, and a refused word faults where any other is performed. -/
theorem illegalWordsRaiseIllegalCommand : Obligations.IllegalWordsRaiseIllegalCommand := by
  unfold Obligations.IllegalWordsRaiseIllegalCommand
  refine ⟨fun s hr hv => ⟨fun hbad => ?_, fun hgood => ?_⟩, illegal_word_count, fun _ => rfl⟩
  · obtain ⟨e, hd⟩ := decode_of_illegalWord ((legalWord_eq_false_iff _).2 hbad)
    exact ⟨step_of_decode_error hr hv hd, by simp [edge_of_decode_error hr hv hd]⟩
  · have hlegal : legalWord s.pins.cmd = true := by
      rw [← Bool.not_eq_false]
      exact mt (legalWord_eq_false_iff _).1 hgood
    obtain ⟨i, hd⟩ := decode_of_legalWord hlegal
    obtain ⟨t, ht⟩ := exec_exists_next i s
    exact ⟨t.advance, step_of_exec hr hv hd ht⟩

/-! ## The write data -/

/-- Of din a command takes all bits (WR16), din[7:0] (WR8) or none (R77). -/
theorem exec_congr_din {i : Instr} {s t u : State} {d : Word} (h16 : ∀ p, i = .wr16 p → d = s.pins.din)
    (h8 : ∀ r, i = .wr8 r → lowByte d = lowByte s.pins.din) (h : exec i s = .next t)
    (h' : exec i { s with pins := { s.pins with din := d } } = .next u) : u.pairs = t.pairs ∧ u.out = t.out := by
  cases i with
  | wr16 p =>
    cases h; cases h'
    exact ⟨congrArg (s.pairs.set p) (h16 p rfl), rfl⟩
  | wr8 r =>
    cases h; cases h'
    exact ⟨congrArg (s.pairs.writeHalf r) (h8 r rfl), rfl⟩
  | rd16 | rd8 | rdf | clrf | setf => cases h; cases h'; exact ⟨rfl, rfl⟩

/-- Settles O31: each write leaves its operand where it is read back, and the bits a command ignores are free. -/
theorem dinOperands : Obligations.DinOperands := by
  unfold Obligations.DinOperands
  refine ⟨fun p s => ⟨_, rfl, Pairs.get_set_same _ p _⟩, fun r s => ⟨_, rfl, ?_⟩, fun i s d h16 h8 => ?_⟩
  · exact (Pairs.readHalf_writeHalf _ r r _).trans (if_pos rfl)
  · obtain ⟨t, ht⟩ := exec_exists_next i s
    obtain ⟨u, hu⟩ := exec_exists_next i { s with pins := { s.pins with din := d } }
    exact ⟨t, u, ht, hu, exec_congr_din h16 h8 ht hu⟩

/-! ## The result -/

/-- A zero byte in front of a half is its zero extension (R78). -/
theorem zero_append_byte (v : Byte) : 0x00#8 ++ v = v.setWidth 16 :=
  (BitVec.setWidth_eq_append (by decide)).symm

/-- The flag of R78's table is the flag the read projection sees: bit 7 - f of AF. -/
theorem Pairs.readFlag_eq_select_bit (x : Pairs) (f : FlagName) : x.readFlag f = x.af.getLsbD (7 - f.index.toNat) := by
  rw [Pairs.readFlag_eq_af_bit, FlagName.bit_eq_seven_sub_index]

theorem ofNat_toNat_eq_zextBit (b : Bool) : BitVec.ofNat 16 b.toNat = zextBit b := by cases b <;> rfl

/-- The dout computed before the edge is R78's table. -/
theorem doutOf_eq_resultTable (x : Pairs) (i : Instr) : doutOf x i = resultTable x i := by
  cases i with
  | rd8 r => exact zero_append_byte _
  | rdf f =>
    rw [doutOf, resultTable, ← Pairs.readFlag_eq_bit, ← Pairs.readFlag_eq_select_bit, ofNat_toNat_eq_zextBit, zextBit]
  | rd16 | wr16 | wr8 | clrf | setf => rfl

/-- The response recorded after the edge is R78's table over the pairs before it. -/
theorem exec_out {i : Instr} {s t : State} (h : exec i s = .next t) : t.out = ⟨resultTable s.pairs i, false⟩ := by
  cases i with
  | rdf f =>
    cases h
    rw [State.respond_out, resultTable, ← Pairs.readFlag_eq_select_bit, zextBit]
  | rd16 | rd8 | wr16 | wr8 | clrf | setf => cases h; rfl

/-- R78's table has 0x0000 for the commands that write. -/
theorem resultTable_of_write {i : Instr} (hi : writeTarget i ≠ none) (x : Pairs) : resultTable x i = 0x0000 := by
  cases i with
  | rd16 | rd8 | rdf => exact absurd rfl hi
  | wr16 | wr8 | clrf | setf => rfl

/-- Settles O32: the outputs in the cycle and the record after it are both R78's table. -/
theorem resultAssembly : Obligations.ResultAssembly := by
  unfold Obligations.ResultAssembly
  refine fun s hr hv => ⟨fun i hd => ?_, fun e hd => ?_⟩
  · obtain ⟨t, ht⟩ := exec_exists_next i s
    have hout : t.out = ⟨resultTable s.pairs i, false⟩ := exec_out ht
    have hread : writeTarget i = none → t.pairs = s.pairs := exec_read_pairs ht
    refine ⟨?_, t.advance, step_of_exec hr hv hd ht, hout, hread, fun hi => ?_⟩
    · rw [outputs_of_decode_ok hr hv hd, doutOf_eq_resultTable]
    · rw [State.advance_out, hout, resultTable_of_write hi]
  · exact ⟨outputs_of_decode_error hr hv hd, by simp [edge_of_decode_error hr hv hd]⟩

end Sys2Proof.Machine
end

section
/-! PROOFS. Pair and half access (40_pair_access.md): the word of each command, what a write of a pair or a half leaves
in every view of the cells, and what a read shows after the writes presented before it. -/

namespace Sys2Proof

/-! ## The word of a command -/

/-- The encoder is inverted by the decoder, operand by operand (30_encoding.md R79). -/
theorem decode_encode (i : Instr) : decode (encode i) = .ok i := by
  cases i with
  | rd16 p | wr16 p => cases p <;> rfl
  | rd8 r | wr8 r => cases r <;> rfl
  | rdf f | clrf f | setf f => cases f <;> rfl

/-- The word a command is read from is its encoding: no bit of the word is dropped. -/
theorem encode_of_mem_decode (w : Byte) : ∀ i ∈ (decode w).toOption, encode i = w := by
  revert w; decide

/-- A command has one word (30_encoding.md R79). -/
theorem decode_eq_ok_iff (w : Byte) (i : Instr) : decode w = .ok i ↔ w = encode i where
  mp h := (encode_of_mem_decode w i (by rw [h]; rfl)).symm
  mpr h := h ▸ decode_encode i

theorem encode_rd16 (p : PairName) : encode (.rd16 p) = 0x00 + p.index.setWidth 8 := by cases p <;> rfl

theorem encode_wr16 (p : PairName) : encode (.wr16 p) = 0x20 + p.index.setWidth 8 := by cases p <;> rfl

theorem encode_rd8 (r : HalfName) : encode (.rd8 r) = 0x40 + r.index.setWidth 8 := by cases r <;> rfl

theorem encode_wr8 (r : HalfName) : encode (.wr8 r) = 0x60 + r.index.setWidth 8 := by cases r <;> rfl

/-! ## The halves by the bits of their index -/

/-- r[2:1] is the index of the pair (10_state.md R26). -/
theorem HalfName.ofIndex_extract_index (r : HalfName) : PairName.ofIndex (r.index.extractLsb' 1 2) = r.pair := by
  cases r <;> rfl

/-- r[0] chooses the low byte (10_state.md R26). -/
theorem HalfName.index_getLsbD_zero (r : HalfName) : r.index.getLsbD 0 = !r.isHigh := by cases r <;> rfl

@[simp] theorem PairName.highHalf_ne_lowHalf (p : PairName) : p.highHalf ≠ p.lowHalf := by cases p <;> decide

end Sys2Proof

namespace Sys2Proof.Machine

/-! ## Reading and writing a half by its index -/

/-- The half an index names, by the bits of the index (40_pair_access.md R102). -/
theorem Pairs.readHalf_eq_byte_by_index (x : Pairs) (r : HalfName) :
    x.readHalf r =
      let v := x.get (PairName.ofIndex (r.index.extractLsb' 1 2))
      if r.index.getLsbD 0 then v.extractLsb' 0 8 else v.extractLsb' 8 8 := by
  rw [HalfName.ofIndex_extract_index, HalfName.index_getLsbD_zero, Pairs.readHalf]
  cases r.isHigh <;> rfl

/-- Every cell after a half write, by the bits of the half's index (40_pair_access.md R103). -/
theorem Pairs.get_writeHalf_by_index (x : Pairs) (r : HalfName) (v : Byte) (q : PairName) :
    (x.writeHalf r v).get q =
      if q = PairName.ofIndex (r.index.extractLsb' 1 2) then
        (if r.index.getLsbD 0 then (x.get q).extractLsb' 8 8 ++ v else v ++ (x.get q).extractLsb' 0 8)
      else x.get q := by
  rw [HalfName.ofIndex_extract_index, HalfName.index_getLsbD_zero, Pairs.get_writeHalf]
  cases r.isHigh <;> rfl

/-! ## What a write leaves in the views of the cells -/

/-- A pair write is a write of all flags when the pair is AF, and of none otherwise. -/
theorem Pairs.readFlag_set (x : Pairs) (p : PairName) (v : Word) (f : FlagName) :
    (x.set p v).readFlag f = if p = .af then v.getLsbD f.bit else x.readFlag f := by
  rw [Pairs.readFlag_eq_af_bit, Pairs.readFlag_eq_af_bit]
  cases p <;> rfl

/-- A half write is a write of all flags when the half is F, and of none otherwise: the flags are bits of F. -/
theorem Pairs.readFlag_writeHalf (x : Pairs) (r : HalfName) (v : Byte) (f : FlagName) :
    (x.writeHalf r v).readFlag f = if r = .f then v.getLsbD f.bit else x.readFlag f := by
  have hF (y : Pairs) : y.readFlag f = (y.readHalf .f).getLsbD f.bit := y.readFlag_eq_bit f
  simp only [hF, Pairs.readHalf_writeHalf, eq_comm (a := HalfName.f), apply_ite (BitVec.getLsbD · f.bit)]

/-- The flag bits of WR8's operand are those of din. -/
theorem State.din8_getLsbD_bit (s : State) (f : FlagName) : s.din8.getLsbD f.bit = s.pins.din.getLsbD f.bit := by
  rw [State.din8, getLsbD_lowByte, decide_eq_true (FlagName.bit_lt_eight f), Bool.true_and]

/-- A pair whose halves are both written, the low one last, is the two bytes. -/
theorem Pairs.get_writeHalf_high_low (x : Pairs) (p : PairName) (h l : Byte) :
    ((x.writeHalf p.highHalf h).writeHalf p.lowHalf l).get p = joinBytes h l := by
  simp [Pairs.get_eq_halves, Pairs.readHalf_writeHalf]

/-- A pair whose halves are both written, the high one last, is the two bytes. -/
theorem Pairs.get_writeHalf_low_high (x : Pairs) (p : PairName) (h l : Byte) :
    ((x.writeHalf p.lowHalf l).writeHalf p.highHalf h).get p = joinBytes h l := by
  simp [Pairs.get_eq_halves, Pairs.readHalf_writeHalf, (p.highHalf_ne_lowHalf).symm]

/-! ## The four commands in every state -/

theorem exec_wr16 (p : PairName) (s : State) : exec (.wr16 p) s = .next (s.commit (s.pairs.set p s.pins.din)) := rfl

theorem exec_wr8 (r : HalfName) (s : State) : exec (.wr8 r) s = .next (s.commit (s.pairs.writeHalf r s.din8)) := rfl

/-- A command that writes no pair completes, shows its result and leaves all else as it was. -/
theorem exec_read {i : Instr} (hi : writeTarget i = none) (s : State) :
    ∃ t, exec i s = .next t ∧ t.out = ⟨resultTable s.pairs i, false⟩ ∧ t.pairs = s.pairs ∧ SameSurroundings s t := by
  obtain ⟨t, ht⟩ := exec_exists_next i s
  exact ⟨t, ht, exec_out ht, exec_read_pairs ht hi, (exec_frame ht).1⟩

/-- Settles O10: the word by the encoder, the refusals by R80's conditions on class 000, the effect of a read. -/
theorem rd16ReadsThePair : Obligations.Rd16ReadsThePair := by
  unfold Obligations.Rd16ReadsThePair
  refine ⟨fun p w => encode_rd16 p ▸ decode_eq_ok_iff w _, fun w hclass hbad => ?_, fun p s => ?_⟩
  · apply decode_of_illegalWord
    rw [legalWord_eq_false_iff]
    rcases hbad with hsel | hrsv
    · exact .inr (.inr ⟨hsel, .inl hclass⟩)
    · exact .inr (.inl hrsv)
  · exact exec_read (i := .rd16 p) rfl s

/-- Settles O11: a pair write as every cell and every flag sees it. -/
theorem wr16WritesThePair : Obligations.Wr16WritesThePair := by
  unfold Obligations.Wr16WritesThePair
  refine ⟨fun p w => encode_wr16 p ▸ decode_eq_ok_iff w _, fun p s => ?_⟩
  exact ⟨_, exec_wr16 p s, fun q => Pairs.get_set _ p q _, fun f => Pairs.readFlag_set _ p _ f, rfl,
    (exec_frame (exec_wr16 p s)).1⟩

/-- Settles O12: the effect of a read, whose half is the byte its index names. -/
theorem rd8ReadsTheHalf : Obligations.Rd8ReadsTheHalf := by
  unfold Obligations.Rd8ReadsTheHalf
  refine ⟨fun r w => encode_rd8 r ▸ decode_eq_ok_iff w _, fun r s => ?_⟩
  obtain ⟨t, ht, hout, hframe⟩ := exec_read (i := .rd8 r) rfl s
  rw [resultTable, Pairs.readHalf_eq_byte_by_index] at hout
  exact ⟨t, ht, hout, hframe⟩

/-- Settles O13: a half write as every cell and every flag sees it. -/
theorem wr8WritesTheHalf : Obligations.Wr8WritesTheHalf := by
  unfold Obligations.Wr8WritesTheHalf
  refine ⟨fun r w => encode_wr8 r ▸ decode_eq_ok_iff w _, fun r s => ?_⟩
  refine ⟨_, exec_wr8 r s, fun q => Pairs.get_writeHalf_by_index _ r _ q, fun f => ?_, rfl,
    (exec_frame (exec_wr8 r s)).1⟩
  rw [State.commit_pairs, Pairs.readFlag_writeHalf, State.din8_getLsbD_bit]

/-- Settles O17: a half write as every half sees it. -/
theorem halfWriteLeavesOtherHalves : Obligations.HalfWriteLeavesOtherHalves := by
  unfold Obligations.HalfWriteLeavesOtherHalves
  refine fun s r => ⟨_, exec_wr8 r s, ?_, fun r' hne => ?_⟩
  · exact (Pairs.readHalf_writeHalf _ r r _).trans (if_pos rfl)
  · exact (Pairs.readHalf_writeHalf _ r r' _).trans (if_neg hne)

/-! ## Runs of presented commands -/

/-- One presented instruction of a run: its effect, and the rest of the cycles presented to what it leaves. -/
theorem run_present_ofInstr {i : Instr} {d : Word} {cs : List PortIn} {s t : State}
    (h : exec i (s.present (.ofInstr i d :: cs)) = .next t) (n : Nat) :
    core.run (n + 1) (s.present (.ofInstr i d :: cs)) = core.run n (t.present cs) :=
  run_present_command (decode_encode i) h n

/-- The last presented instruction shows its result over the pairs it finds. -/
theorem run_present_last (i : Instr) (d : Word) (s : State) :
    ∃ t, core.run 1 (s.present [.ofInstr i d]) = .next t ∧ t.out = ⟨resultTable s.pairs i, false⟩ := by
  obtain ⟨t, ht⟩ := exec_exists_next i (s.present [.ofInstr i d])
  have hout := exec_out ht
  rw [State.present_pairs] at hout
  exact ⟨t.present [], run_present_ofInstr ht 0, hout⟩

/-- An instruction presented after WR16 shows its result over the written pairs. -/
theorem run_wr16_then (s : State) (p : PairName) (v : Word) (i : Instr) (d : Word) :
    ∃ t, core.run 2 (s.present [.ofInstr (.wr16 p) v, .ofInstr i d]) = .next t ∧
      t.out = ⟨resultTable (s.pairs.set p v) i, false⟩ := by
  rw [run_present_ofInstr (exec_wr16 p _)]
  exact run_present_last i d _

/-- An instruction presented after two WR8 shows its result over the pairs with both halves written. -/
theorem run_wr8_wr8_then (s : State) (r r' : HalfName) (v v' : Word) (i : Instr) (d : Word) :
    ∃ t, core.run 3 (s.present [.ofInstr (.wr8 r) v, .ofInstr (.wr8 r') v', .ofInstr i d]) = .next t ∧
      t.out = ⟨resultTable ((s.pairs.writeHalf r (lowByte v)).writeHalf r' (lowByte v')) i, false⟩ := by
  rw [run_present_ofInstr (exec_wr8 r _), run_present_ofInstr (exec_wr8 r' _)]
  exact run_present_last i d _

/-- Settles O15: each read shows its view of the written pair. -/
theorem pairWriteThenReads : Obligations.PairWriteThenReads := by
  unfold Obligations.PairWriteThenReads
  intro s p v d
  have hpair := run_wr16_then s p v (.rd16 p) d
  have hhigh := run_wr16_then s p v (.rd8 p.highHalf) d
  have hlow := run_wr16_then s p v (.rd8 p.lowHalf) d
  rw [resultTable, Pairs.get_set_same] at hpair
  rw [resultTable, Pairs.readHalf_highHalf, Pairs.get_set_same] at hhigh
  rw [resultTable, Pairs.readHalf_lowHalf, Pairs.get_set_same] at hlow
  exact ⟨hpair, hhigh, hlow⟩

/-- Settles O16: in both orders the pair is its two written halves. -/
theorem halvesWrittenInEitherOrder : Obligations.HalvesWrittenInEitherOrder := by
  unfold Obligations.HalvesWrittenInEitherOrder
  intro s p h l d
  have hhighFirst := run_wr8_wr8_then s p.highHalf p.lowHalf h l (.rd16 p) d
  have hlowFirst := run_wr8_wr8_then s p.lowHalf p.highHalf l h (.rd16 p) d
  rw [resultTable, Pairs.get_writeHalf_high_low] at hhighFirst
  rw [resultTable, Pairs.get_writeHalf_low_high] at hlowFirst
  exact ⟨hhighFirst, hlowFirst⟩

/-- Settles O19: R104's two half reads at the value 0xABCD. -/
theorem byteOrderCheck : Obligations.ByteOrderCheck := by
  unfold Obligations.ByteOrderCheck
  intro s p d
  obtain ⟨-, hhigh, hlow⟩ := pairWriteThenReads s p 0xABCD d
  exact ⟨hhigh, hlow⟩

end Sys2Proof.Machine
end

section
/-! PROOFS. The flags view (41_flags.md): the word of each flag command and the refused flag indices, what a flag
mutation leaves in every bit of the pairs, and what a flag reads after the mutations presented before it. -/

namespace Sys2Proof

/-! ## The word of a flag command -/

theorem encode_rdf (f : FlagName) : encode (.rdf f) = 0x80 + f.index.setWidth 8 := by cases f <;> rfl

theorem encode_clrf (f : FlagName) : encode (.clrf f) = 0xA0 + f.index.setWidth 8 := by cases f <;> rfl

theorem encode_setf (f : FlagName) : encode (.setf f) = 0xC0 + f.index.setWidth 8 := by cases f <;> rfl

/-- The mask of a flag by its select (30_encoding.md R76). -/
theorem FlagName.mask_eq_shift (f : FlagName) : f.mask = 0x80#8 >>> f.index.toNat := by cases f <;> rfl

/-- No flag stands in F[3:0] (10_state.md R31). -/
theorem FlagName.four_le_bit (f : FlagName) : 4 ≤ f.bit := by cases f <;> decide

/-- A word of a flag class with sel[2] or a reserved bit set is no command (41_flags.md R129). -/
theorem decode_error_of_flag_index {w : Byte} (hclass : classField w = 4 ∨ classField w = 5 ∨ classField w = 6)
    (hbad : selTop w = true ∨ rsvField w ≠ 0) : ∃ e, decode w = .error e := by
  apply decode_of_illegalWord
  rw [legalWord_eq_false_iff]
  rcases hbad with hsel | hrsv
  · exact .inr (.inr ⟨hsel, .inr (.inr hclass)⟩)
  · exact .inr (.inl hrsv)

end Sys2Proof

namespace Sys2Proof.Machine

/-- Settles O5: the word is refused, and a refused word faults the run and leaves the pairs at the edge. -/
theorem outOfRangeFlagIndexIsRejected : Obligations.OutOfRangeFlagIndexIsRejected := by
  unfold Obligations.OutOfRangeFlagIndexIsRejected
  intro s hr hv hclass hbad
  obtain ⟨e, hd⟩ := decode_error_of_flag_index hclass hbad
  exact ⟨step_of_decode_error hr hv hd, by simp [edge_of_decode_error hr hv hd]⟩

/-! ## Reading a flag -/

theorem exec_rdf (f : FlagName) (s : State) :
    exec (.rdf f) s = .next (s.respond (zextBit (s.pairs.readFlag f))) := rfl

/-- The two forms of R120's result: the masked byte, and bit 7 - f of F. -/
theorem Pairs.and_shift_ne_zero_iff (x : Pairs) (f : FlagName) :
    x.flagByte &&& (0x80#8 >>> f.index.toNat) ≠ 0 ↔ x.af.getLsbD (7 - f.index.toNat) = true := by
  rw [← FlagName.mask_eq_shift, ← Pairs.readFlag_eq_select_bit, Pairs.readFlag, bne_iff_ne]; rfl

/-- Settles O21: the word by the encoder, the refusals of class 100, and the effect of a read in both forms. -/
theorem rdfReadsTheFlag : Obligations.RdfReadsTheFlag := by
  unfold Obligations.RdfReadsTheFlag
  refine ⟨fun f w => encode_rdf f ▸ decode_eq_ok_iff w _, fun w hclass hbad => ?_, fun f s => ?_⟩
  · exact decode_error_of_flag_index (.inl hclass) hbad
  · obtain ⟨t, ht, hout, hframe⟩ := exec_read (i := .rdf f) rfl s
    refine ⟨t, ht, ?_, hout, hframe⟩
    rw [hout, resultTable]
    simp only [← Pairs.and_shift_ne_zero_iff, Pairs.flagByte, lowByte]

/-! ## Writing a flag

SETF and CLRF are one operation with the value to write as its argument (`SETFV`, 30_encoding.md R83). -/

/-- What `SETFV f, on` leaves in the pairs. -/
def Pairs.putFlag (x : Pairs) (f : FlagName) : Bool → Pairs
  | true => x.flagOn f
  | false => x.flagOff f

theorem exec_setfv (f : FlagName) (on : Bool) (s : State) :
    exec (setfv f on) s = .next (s.commit (s.pairs.putFlag f on)) := by
  cases on <;> rfl

/-- The two flag mutations are `SETFV` with its two values. -/
theorem exists_eq_setfv {f : FlagName} {i : Instr} (h : i = .setf f ∨ i = .clrf f) : ∃ on, i = setfv f on := by
  rcases h with rfl | rfl
  · exact ⟨true, rfl⟩
  · exact ⟨false, rfl⟩

/-- The exact AF after SETF (41_flags.md R121). -/
theorem Pairs.putFlag_true_eq (x : Pairs) (f : FlagName) :
    x.putFlag f true =
      { x with af := x.af.extractLsb' 8 8 ++ (x.af.extractLsb' 0 8 ||| (0x80#8 >>> f.index.toNat)) } := by
  rw [← FlagName.mask_eq_shift]; rfl

/-- The exact AF after CLRF (41_flags.md R122). -/
theorem Pairs.putFlag_false_eq (x : Pairs) (f : FlagName) :
    x.putFlag f false =
      { x with af := x.af.extractLsb' 8 8 ++ (x.af.extractLsb' 0 8 &&& ~~~(0x80#8 >>> f.index.toNat)) } := by
  rw [← FlagName.mask_eq_shift]; rfl

theorem Pairs.readFlag_putFlag (x : Pairs) (f g : FlagName) (on : Bool) :
    (x.putFlag f on).readFlag g = if g = f then on else x.readFlag g := by
  cases on with
  | true => exact x.readFlag_flagOn f g
  | false => exact x.readFlag_flagOff f g

theorem Pairs.readFlag_putFlag_same (x : Pairs) (f : FlagName) (on : Bool) :
    (x.putFlag f on).readFlag f = on := by
  rw [Pairs.readFlag_putFlag, if_pos rfl]

theorem Pairs.flagByte_putFlag_true (x : Pairs) (f : FlagName) :
    (x.putFlag f true).flagByte = x.flagByte ||| f.mask :=
  Pairs.flagByte_setFlagByte _ _

theorem Pairs.flagByte_putFlag_false (x : Pairs) (f : FlagName) :
    (x.putFlag f false).flagByte = x.flagByte &&& ~~~f.mask :=
  Pairs.flagByte_setFlagByte _ _

theorem Pairs.putFlag_putFlag (x : Pairs) (f : FlagName) (on : Bool) :
    (x.putFlag f on).putFlag f on = x.putFlag f on := by
  cases on with
  | true => exact x.flagOn_flagOn f
  | false => exact x.flagOff_flagOff f

/-! ### Every bit of the pairs -/

/-- Bit b of F is bit b of AF (10_state.md R30). -/
theorem Pairs.flagByte_getLsbD (x : Pairs) {b : Nat} (hb : b < 8) : x.flagByte.getLsbD b = x.af.getLsbD b := by
  rw [Pairs.flagByte, getLsbD_lowByte, decide_eq_true hb, Bool.true_and]

/-- A write of F replaces the bits 7:0 of AF and keeps the bits 15:8. -/
theorem Pairs.af_getLsbD_setFlagByte (x : Pairs) (v : Byte) (b : Nat) :
    (x.setFlagByte v).af.getLsbD b = if b < 8 then v.getLsbD b else x.af.getLsbD b := by
  have hA : x.af.getLsbD b = (joinBytes (highByte x.af) (lowByte x.af)).getLsbD b := by
    rw [joinBytes_highByte_lowByte]
  rw [hA, Pairs.setFlagByte, getLsbD_joinBytes, getLsbD_joinBytes]
  split <;> rfl

/-- Where the byte written to F differs from F in a flag's bit alone, no other bit of the 64 changes. -/
theorem Pairs.getLsbD_get_setFlagByte (x : Pairs) {v : Byte} {f : FlagName} {on : Bool}
    (hv : ∀ b, v.getLsbD b = if b = f.bit then on else x.flagByte.getLsbD b) (q : PairName) (b : Nat) :
    ((x.setFlagByte v).get q).getLsbD b = if q = .af ∧ b = f.bit then on else (x.get q).getLsbD b := by
  cases q with
  | bc | de | hl => rfl
  | af =>
    have hbit : f.bit < 8 := FlagName.bit_lt_eight f
    simp only [Pairs.get, Pairs.af_getLsbD_setFlagByte, hv, true_and]
    by_cases hb : b < 8
    · rw [if_pos hb, Pairs.flagByte_getLsbD x hb]
    · rw [if_neg hb, if_neg (by omega)]

/-- 41_flags.md R125: a flag mutation writes the flag's bit of AF and keeps every other bit of the 64. -/
theorem Pairs.getLsbD_get_putFlag (x : Pairs) (f : FlagName) (on : Bool) (q : PairName) (b : Nat) :
    ((x.putFlag f on).get q).getLsbD b = if q = .af ∧ b = f.bit then on else (x.get q).getLsbD b := by
  cases on with
  | true => exact x.getLsbD_get_setFlagByte (getLsbD_or_mask _ f) q b
  | false => exact x.getLsbD_get_setFlagByte (getLsbD_and_not_mask _ f) q b

/-- A field of AF without the flag's bit is kept. -/
theorem Pairs.af_extractLsb'_putFlag (x : Pairs) {f : FlagName} (on : Bool) {start len : Nat}
    (h : f.bit < start ∨ start + len ≤ f.bit) :
    (x.putFlag f on).af.extractLsb' start len = x.af.extractLsb' start len := by
  apply BitVec.eq_of_getLsbD_eq
  intro b hb
  have hbit : (x.putFlag f on).af.getLsbD (start + b) = x.af.getLsbD (start + b) :=
    (x.getLsbD_get_putFlag f on .af _).trans (if_neg (by omega))
  rw [BitVec.getLsbD_extractLsb', BitVec.getLsbD_extractLsb', hbit]

/-- F[3:0] is kept (10_state.md R32). -/
theorem Pairs.low_bits_putFlag (x : Pairs) (f : FlagName) (on : Bool) :
    (x.putFlag f on).af.extractLsb' 0 4 = x.af.extractLsb' 0 4 :=
  x.af_extractLsb'_putFlag on (.inr f.four_le_bit)

/-- A is kept. -/
theorem Pairs.high_byte_putFlag (x : Pairs) (f : FlagName) (on : Bool) :
    (x.putFlag f on).af.extractLsb' 8 8 = x.af.extractLsb' 8 8 :=
  x.af_extractLsb'_putFlag on (.inl (FlagName.bit_lt_eight f))

/-- The pairs other than AF are kept. -/
theorem Pairs.get_putFlag_of_ne (x : Pairs) (f : FlagName) (on : Bool) {q : PairName} (hq : q ≠ .af) :
    (x.putFlag f on).get q = x.get q :=
  BitVec.eq_of_getLsbD_eq fun b _ => (x.getLsbD_get_putFlag f on q b).trans (if_neg fun h => hq h.1)

/-- Settles O22: SETF is `SETFV f, true`. -/
theorem setfTurnsTheFlagOn : Obligations.SetfTurnsTheFlagOn := by
  unfold Obligations.SetfTurnsTheFlagOn
  refine ⟨fun f w => encode_setf f ▸ decode_eq_ok_iff w _, fun f s => ?_⟩
  have hexec := exec_setfv f true s
  exact ⟨_, hexec, Pairs.putFlag_true_eq _ f, fun g => Pairs.readFlag_putFlag _ f g true,
    Pairs.low_bits_putFlag _ f true, rfl, (exec_frame hexec).1⟩

/-- Settles O23: CLRF is `SETFV f, false`. -/
theorem clrfTurnsTheFlagOff : Obligations.ClrfTurnsTheFlagOff := by
  unfold Obligations.ClrfTurnsTheFlagOff
  refine ⟨fun f w => encode_clrf f ▸ decode_eq_ok_iff w _, fun f s => ?_⟩
  have hexec := exec_setfv f false s
  exact ⟨_, hexec, Pairs.putFlag_false_eq _ f, fun g => Pairs.readFlag_putFlag _ f g false,
    Pairs.low_bits_putFlag _ f false, rfl, (exec_frame hexec).1⟩

/-- Settles O26: the one rule for every bit, and the fields it leaves. -/
theorem flagMutationChangesOneBit : Obligations.FlagMutationChangesOneBit := by
  unfold Obligations.FlagMutationChangesOneBit
  intro f s i hi
  obtain ⟨on, rfl⟩ := exists_eq_setfv hi
  refine ⟨_, exec_setfv f on s, fun q b hne => ?_, fun g hg => ?_, Pairs.low_bits_putFlag _ f on,
    Pairs.high_byte_putFlag _ f on, ?_, ?_, ?_⟩
  · rw [← FlagName.bit_eq_seven_sub_index] at hne
    exact (Pairs.getLsbD_get_putFlag _ f on q b).trans (if_neg hne)
  · exact (Pairs.readFlag_putFlag _ f g on).trans (if_neg hg)
  · exact Pairs.get_putFlag_of_ne _ f on (q := .bc) (by decide)
  · exact Pairs.get_putFlag_of_ne _ f on (q := .de) (by decide)
  · exact Pairs.get_putFlag_of_ne _ f on (q := .hl) (by decide)

/-! ## Runs of flag commands -/

/-- A presented mutation of a run: the flag is written, and the rest of the cycles presented. -/
theorem run_setfv (s : State) (f : FlagName) (on : Bool) (d : Word) (cs : List PortIn) (n : Nat) :
    core.run (n + 1) (s.present (.ofInstr (setfv f on) d :: cs)) =
      core.run n ((s.commit (s.pairs.putFlag f on)).present cs) :=
  run_present_ofInstr (exec_setfv f on _) n

/-- A presented flag read of a run: the flag is shown, and the rest of the cycles presented. -/
theorem run_rdf (s : State) (f : FlagName) (d : Word) (cs : List PortIn) (n : Nat) :
    core.run (n + 1) (s.present (.ofInstr (.rdf f) d :: cs)) =
      core.run n ((s.respond (zextBit (s.pairs.readFlag f))).present cs) :=
  run_present_ofInstr (exec_rdf f _) n

/-- A flag read after a mutation of it shows the value written (41_flags.md R124). -/
theorem run_setfv_then_rdf (s : State) (f : FlagName) (on : Bool) (d e : Word) :
    ∃ t, core.run 2 (s.present [.ofInstr (setfv f on) d, .ofInstr (.rdf f) e]) = .next t ∧
      t.out = ⟨zextBit on, false⟩ := by
  refine ⟨_, (run_setfv s f on d _ 1).trans (run_rdf _ f e _ 0), ?_⟩
  rw [State.present_out, State.respond_out, State.commit_pairs, Pairs.readFlag_putFlag_same]

/-- Settles O25: a mutation and then the read of its flag, for both values. -/
theorem flagWriteThenRead : Obligations.FlagWriteThenRead := by
  unfold Obligations.FlagWriteThenRead
  exact fun s f d e => ⟨run_setfv_then_rdf s f true d e, run_setfv_then_rdf s f false d e⟩

/-- Settles O27: the second mutation writes the value the first one left. -/
theorem flagMutationIsIdempotent : Obligations.FlagMutationIsIdempotent := by
  unfold Obligations.FlagMutationIsIdempotent
  intro f s i d e hi
  obtain ⟨on, rfl⟩ := exists_eq_setfv hi
  refine ⟨_, _, run_setfv s f on d _ 0, (run_setfv s f on d _ 1).trans (run_setfv _ f on e _ 0), ?_⟩
  exact congrArg Pairs.flagByte (Pairs.putFlag_putFlag s.pairs f on)

/-- Settles O28: F after each of the two mutations, and the value a read shows after each. -/
theorem workedFlagExample : Obligations.WorkedFlagExample := by
  unfold Obligations.WorkedFlagExample
  intro s d hF cs
  have hon : (s.pairs.putFlag .z true).flagByte = 0b1011_1111#8 := by
    rw [Pairs.flagByte_putFlag_true, hF]; rfl
  have hoff : ((s.pairs.putFlag .z true).putFlag .z false).flagByte = 0b0011_1111#8 := by
    rw [Pairs.flagByte_putFlag_false, hon]; rfl
  have hread (x : Pairs) (on : Bool) : (⟨zextBit ((x.putFlag .z on).readFlag .z), false⟩ : PortOut) =
      ⟨zextBit on, false⟩ := by rw [Pairs.readFlag_putFlag_same]
  have h₁ (n : Nat) : core.run (n + 1) (s.present cs) = _ :=
    run_setfv s .z true d [.ofInstr (.rdf .z) d, .ofInstr (setfv .z false) d, .ofInstr (.rdf .z) d] n
  have h₂ (n : Nat) := (h₁ (n + 1)).trans (run_rdf _ .z d _ n)
  have h₃ (n : Nat) := (h₂ (n + 1)).trans (run_setfv _ .z false d _ n)
  have h₄ (n : Nat) := (h₃ (n + 1)).trans (run_rdf _ .z d _ n)
  exact ⟨_, _, _, _, h₁ 0, hon, h₂ 0, hread _ true, h₃ 0, hoff, h₄ 0, hread _ false⟩

end Sys2Proof.Machine
end

section
/-! PROOFS. The one exception (60_exceptions.md): what an accepted illegal word does to the pairs, the outputs, the step
model and the run (R141), and that nothing else a cycle can be raises anything (R142). -/

namespace Sys2Proof.Machine

/-! ## IllegalCommand -/

/-- R12's step answers a refused word with Fault and its own state. -/
theorem ByteFile.step_of_decode_error {w : Byte} {e : Illegal} (hd : decode w = .error e) (p : ResetParams)
    (x : ByteFile) (din : Word) : x.step p (.cmd w din) = (x, .fault w) := by
  simp only [ByteFile.step, hd]

/-- A run whose first step faults is that fault, however many steps it is given. -/
theorem run_succ_of_step_fault {s : State} {r : Fault} (h : step s = .fault r) (n : Nat) :
    core.run (n + 1) s = .fault r := by
  have hc : core.step s = .fault r := h
  simp only [Host.Core.run, hc]

/-- Settles O38: the edge, the outputs, the step model and the run of a refused word, each by its rule. -/
theorem illegalCommandFaultsTheRun : Obligations.IllegalCommandFaultsTheRun := by
  unfold Obligations.IllegalCommandFaultsTheRun
  intro s e hr hv hd
  have hpairs : (edge s).pairs = s.pairs := by
    rw [edge_of_decode_error hr hv hd, State.advance_pairs, State.showIllegal_pairs]
  exact ⟨hpairs, outputs_of_decode_error hr hv hd, ByteFile.step_of_decode_error hd _ _ _,
    run_succ_of_step_fault (step_of_decode_error hr hv hd)⟩

/-! ## Legal cycles -/

/-- The one way a cycle is not legal: it presents an illegal word, with no reset to win over it (R144). -/
theorem PortIn.legal_eq_false_iff (c : PortIn) :
    c.legal = false ↔ c.rst = false ∧ c.cmdValid = true ∧ legalWord c.cmd = false := by
  simp [PortIn.legal, and_assoc]

/-- Of the four things a cycle can be, the refused word alone does not complete, and it is not legal. -/
theorem cycle_exists_next_of_legal {s : State} (h : s.pins.legal = true) : ∃ t, cycle s = .next t := by
  rcases cycle_cases s with ⟨-, hreset⟩ | ⟨-, -, hidle⟩ | ⟨i, -, -, -, hexec⟩ | ⟨e, hr, hv, hd, -⟩
  · exact ⟨_, hreset⟩
  · exact ⟨_, hidle⟩
  · exact hexec ▸ exec_exists_next i s
  · have hillegal := (PortIn.legal_eq_false_iff _).2 ⟨hr, hv, legalWord_of_decode_error hd⟩
    exact absurd h (ne_true_of_eq_false hillegal)

/-- A step with a legal cycle at the ports completes. -/
theorem step_exists_next_of_legal {s : State} (h : s.pins.legal = true) : ∃ t, step s = .next t := by
  obtain ⟨t, ht⟩ := cycle_exists_next_of_legal h
  exact ⟨t.advance, step_eq_next_iff.2 ⟨t, ht, rfl⟩⟩

/-- Settles O39: every command completes in every state, so every legal cycle does. -/
theorem legalCommandsNeverFault : Obligations.LegalCommandsNeverFault := by
  unfold Obligations.LegalCommandsNeverFault
  exact ⟨exec_exists_next, fun _ => step_exists_next_of_legal⟩

end Sys2Proof.Machine
end

section
/-! PROOFS. Reset (70_reset_and_hazards.md): what a cycle with rst = 1 does whatever word and cmd_valid stand at the
ports (R160, R161), and that no other cycle writes more than one pair. -/

namespace Sys2Proof.Machine

/-! ## A reset cycle -/

/-- Reset wins over the word at the ports (R161): the cycle is the reset, and the collaborator's next cycle follows. -/
theorem step_of_rst {s : State} (hr : s.pins.rst = true) : step s = .next s.acceptReset.advance := by
  simp [step, cycle, hr, afterCycle]

/-- In a reset cycle dout is unspecified and err is 0, whatever word is presented (R161). -/
theorem outputs_of_rst {s : State} (hr : s.pins.rst = true) : outputs s = ⟨Config.freeDout s.draws, false⟩ := by
  simp [outputs, hr]

/-! ## A cycle without reset -/

/-- A command leaves every pair but its target (40_pair_access.md R107). -/
theorem exec_get_of_ne_target {i : Instr} {s t : State} (h : exec i s = .next t) {q : PairName}
    (hq : writeTarget i ≠ some q) : t.pairs.get q = s.pairs.get q := by
  have hne {p : PairName} (hp : writeTarget i = some p) : q ≠ p := fun hqp => hq (hqp ▸ hp)
  cases i with
  | rd16 | rd8 | rdf => rw [exec_read_pairs h rfl]
  | wr16 p => cases h; exact (Pairs.get_set _ p q _).trans (if_neg (hne rfl))
  | wr8 r => cases h; exact (Pairs.get_writeHalf _ r _ q).trans (if_neg (hne rfl))
  | clrf f | setf f => cases h; exact (Pairs.get_setFlagByte _ _ q).trans (if_neg (hne rfl))

/-- A command keeps all pairs but one: its target, or any pair where it writes none. -/
theorem exec_keeps_all_pairs_but_one {i : Instr} {s t : State} (h : exec i s = .next t) :
    ∃ p, ∀ q, q ≠ p → t.pairs.get q = s.pairs.get q := by
  cases hi : writeTarget i with
  | none => exact ⟨.af, fun q _ => by rw [exec_read_pairs h hi]⟩
  | some p =>
    refine ⟨p, fun q hqp => exec_get_of_ne_target h fun hq => hqp ?_⟩
    exact Option.some.inj (hq.symm.trans hi)

/-- Of the cycles without reset that complete, an idle one keeps the pairs and any other performs one command. -/
theorem cycle_keeps_all_pairs_but_one {s t : State} (hr : s.pins.rst = false) (h : cycle s = .next t) :
    ∃ p, ∀ q, q ≠ p → t.pairs.get q = s.pairs.get q := by
  rcases cycle_cases s with ⟨hrst, -⟩ | ⟨-, -, hidle⟩ | ⟨i, -, -, -, hexec⟩ | ⟨e, -, -, -, hfault⟩
  · exact absurd hrst (ne_true_of_eq_false hr)
  · cases hidle.symm.trans h
    exact ⟨.af, fun _ _ => rfl⟩
  · exact exec_keeps_all_pairs_but_one (hexec.symm.trans h)
  · cases hfault.symm.trans h

/-- Settles O8: the reset cycle by its own equations, and any other step by the cycle it performs. -/
theorem resetCycleLoadsParameters : Obligations.ResetCycleLoadsParameters := by
  unfold Obligations.ResetCycleLoadsParameters
  refine ⟨fun s hr => ⟨?_, s.acceptReset.advance, step_of_rst hr, ?_⟩, fun _ _ => rfl, fun s t hr h => ?_⟩
  · rw [outputs_of_rst hr]
  · have hpins (c cs) (hp : s.pending = c :: cs) : s.acceptReset.advance.pins = c := by simp [hp]
    exact ⟨rfl, rfl, rfl, rfl, rfl, rfl, rfl, hpins⟩
  · obtain ⟨u, hu, rfl⟩ := step_eq_next_iff.1 h
    simpa only [State.advance_pairs] using cycle_keeps_all_pairs_but_one hr hu

end Sys2Proof.Machine
end

section
/-! PROOFS. The opcode map (30_encoding.md sections 2 and 4): the decoder against the printed map, the table words and the
match/mask rows. -/

namespace Sys2Proof

/-! ## Table words of eight bits -/

@[simp] theorem tableWord_toNat (w : Byte) : tableWord 8 w.toNat = w := by
  rw [tableWord, Nat.mod_eq_of_lt w.isLt, BitVec.ofNat_toNat, BitVec.setWidth_eq]

/-- What the decoder reads from a command word is what it reads from it as a table word (R81). -/
theorem decodeTableWord_of_decode {w : Byte} {i : Instr} (h : decode w = .ok i) :
    decodeTableWord 8 w.toNat = some i := by
  have hw : w.toNat % 2 ^ 8 < 256 := Nat.mod_lt _ (by decide)
  simp only [decodeTableWord, if_pos hw, tableWord_toNat, h]

/-! ## The match/mask rows -/

/-- The encoding of an instruction belongs to the row of its mnemonic alone (R79). -/
theorem rowsOf_encode (i : Instr) :
    (rowsOf (encode i)).map OpcodeRow.mnemonic = [(Machine.writtenForm i 0).mnemonic] := by
  cases i with
  | rd16 p | wr16 p => cases p <;> decide
  | rd8 r | wr8 r => cases r <;> decide
  | rdf f | clrf f | setf f => cases f <;> decide

/-- Every word of a row is legal (R79, R80). -/
theorem legalWord_of_matches_row :
    ∀ row ∈ opcodeRows, ∀ w : Byte, w &&& row.maskBits = row.matchBits → legalWord w = true := by
  decide

theorem rowsOf_of_illegalWord {w : Byte} (h : legalWord w = false) : rowsOf w = [] := by
  refine List.filter_eq_nil_iff.2 fun row hrow hmatch => ?_
  exact ne_true_of_eq_false h (legalWord_of_matches_row row hrow w (of_decide_eq_true hmatch))

/-- Settles O3: the round trip from the instruction, and the one word each command has. -/
theorem decodeEncodeAgree : Obligations.DecodeEncodeAgree := by
  unfold Obligations.DecodeEncodeAgree
  refine ⟨fun i _ => ?_, fun w i h => ((decode_eq_ok_iff w i).1 h).symm⟩
  exact ⟨decode_encode i, decodeTableWord_of_decode (decode_encode i)⟩

/-- Settles O1: the sample words, by the decoder. -/
theorem sampleWordsDecode : Obligations.SampleWordsDecode := by
  unfold Obligations.SampleWordsDecode
  decide

end Sys2Proof

namespace Sys2Proof.Machine

/-! ## The printed map -/

/-- Each line of the printed map pairs an instruction with its encoding. -/
theorem fst_eq_encode_of_mem_opcodeMap : ∀ line ∈ opcodeMap, line.1 = encode line.2 := by decide

/-- Every instruction stands in the printed map. -/
theorem encode_mem_opcodeMap (i : Instr) : (encode i, i) ∈ opcodeMap := by
  cases i with
  | rd16 p | wr16 p => cases p <;> decide
  | rd8 r | wr8 r => cases r <;> decide
  | rdf f | clrf f | setf f => cases f <;> decide

/-- The printed map is the graph of the encoder, so it is the graph of the decoder (R79). -/
theorem decode_eq_ok_iff_mem_opcodeMap (w : Byte) (i : Instr) : decode w = .ok i ↔ (w, i) ∈ opcodeMap := by
  rw [decode_eq_ok_iff]
  constructor
  · rintro rfl
    exact encode_mem_opcodeMap i
  · exact fst_eq_encode_of_mem_opcodeMap (w, i)

/-- Settles O2: the map as the decoder's graph, its size, and the rows of legal and of illegal words. -/
theorem opcodeMapIsTheDecoder : Obligations.OpcodeMapIsTheDecoder := by
  unfold Obligations.OpcodeMapIsTheDecoder
  refine ⟨decode_eq_ok_iff_mem_opcodeMap, by decide, rfl, fun w i h => ?_, fun w e h => ?_⟩
  · rw [(decode_eq_ok_iff w i).1 h]
    exact rowsOf_encode i
  · exact rowsOf_of_illegalWord (legalWord_of_decode_error h)

end Sys2Proof.Machine
end

section
/-! PROOFS. A cycle whatever it is (30_encoding.md section 1, 60_exceptions.md section 4): which cycles complete, what the
edge and the outputs are in each, and what every completed step leaves alone. -/

namespace Sys2Proof.Machine

/-! ## Legal and illegal cycles -/

/-- Where the step answers a next state, that state is the hardware's edge. -/
theorem eq_edge_of_step {s t : State} (h : step s = .next t) : t = edge s := by
  obtain ⟨u, hu, rfl⟩ := step_eq_next_iff.1 h
  simp only [edge, hu]

/-- A legal cycle completes, with the hardware's edge. -/
theorem step_of_legal {s : State} (h : s.pins.legal = true) : step s = .next (edge s) := by
  obtain ⟨t, ht⟩ := step_exists_next_of_legal h
  rw [ht, eq_edge_of_step ht]

/-- A cycle that is not legal faults the run with its word (60_exceptions.md R141). -/
theorem step_of_illegal {s : State} (h : s.pins.legal = false) : step s = .fault (.illegalCommand s.pins.cmd) := by
  obtain ⟨hr, hv, hillegal⟩ := (PortIn.legal_eq_false_iff _).1 h
  obtain ⟨e, hd⟩ := decode_of_illegalWord hillegal
  exact step_of_decode_error hr hv hd

/-- The cycles that complete are the legal ones. -/
theorem legal_of_step {s t : State} (h : step s = .next t) : s.pins.legal = true := by
  cases hl : s.pins.legal with
  | true => rfl
  | false => cases (step_of_illegal hl).symm.trans h

/-! ## The four things a cycle can be -/

/-- An accepted word of a command is performed, and the edge follows. -/
theorem step_of_decode_ok {i : Instr} {s : State} (hr : s.pins.rst = false) (hv : s.pins.cmdValid = true)
    (hd : decode s.pins.cmd = .ok i) : step s = afterCycle (exec i s) := by
  simp [step, cycle, hr, hv, hd]

/-- A cycle without reset and without a command does nothing, and the edge follows (R71). -/
theorem step_of_idle {s : State} (hr : s.pins.rst = false) (hv : s.pins.cmdValid = false) :
    step s = .next s.idleCycle.advance := by
  simp [step, cycle, hr, hv, afterCycle]

/-- With no accepted command err is 0 and dout is the next unspecified value (R161, R169). -/
theorem outputs_of_no_command {s : State} (h : s.pins.rst = true ∨ s.pins.cmdValid = false) :
    outputs s = ⟨Config.freeDout s.draws, false⟩ := by
  rcases h with h | h <;> simp [outputs, h]

/-- The four things a cycle can be, by the edge and the outputs. -/
theorem edge_cases (s : State) :
    (s.pins.rst = true ∧ edge s = s.acceptReset.advance ∧ outputs s = ⟨Config.freeDout s.draws, false⟩) ∨
    (s.pins.rst = false ∧ s.pins.cmdValid = false ∧ edge s = s.idleCycle.advance ∧
      outputs s = ⟨Config.freeDout s.draws, false⟩) ∨
    (∃ i t, s.pins.rst = false ∧ s.pins.cmdValid = true ∧ decode s.pins.cmd = .ok i ∧ exec i s = .next t ∧
      edge s = t.advance ∧ outputs s = ⟨resultTable s.pairs i, false⟩) ∨
    (∃ e, s.pins.rst = false ∧ s.pins.cmdValid = true ∧ decode s.pins.cmd = .error e ∧
      edge s = s.showIllegal.advance ∧ outputs s = ⟨0x0000, true⟩) := by
  rcases cycle_cases s with ⟨hr, -⟩ | ⟨hr, hv, -⟩ | ⟨i, hr, hv, hd, -⟩ | ⟨e, hr, hv, hd, -⟩
  · exact .inl ⟨hr, (eq_edge_of_step (step_of_rst hr)).symm, outputs_of_rst hr⟩
  · exact .inr (.inl ⟨hr, hv, (eq_edge_of_step (step_of_idle hr hv)).symm, outputs_of_no_command (.inr hv)⟩)
  · obtain ⟨t, ht⟩ := exec_exists_next i s
    have hout : outputs s = ⟨resultTable s.pairs i, false⟩ := by
      rw [outputs_of_decode_ok hr hv hd, doutOf_eq_resultTable]
    exact .inr (.inr (.inl ⟨i, t, hr, hv, hd, ht, (eq_edge_of_step (step_of_exec hr hv hd ht)).symm, hout⟩))
  · exact .inr (.inr (.inr ⟨e, hr, hv, hd, edge_of_decode_error hr hv hd, outputs_of_decode_error hr hv hd⟩))

/-- The outputs computed before the edge are recorded by it (R71). -/
theorem edge_out (s : State) : (edge s).out = outputs s := by
  rcases edge_cases s with ⟨-, hedge, hout⟩ | ⟨-, -, hedge, hout⟩ | ⟨i, t, -, -, -, ht, hedge, hout⟩ |
    ⟨e, -, -, -, hedge, hout⟩
  · rw [hedge, hout]; rfl
  · rw [hedge, hout]; rfl
  · rw [hedge, hout, State.advance_out, exec_out ht]
  · rw [hedge, hout]; rfl

/-! ## What every edge leaves alone -/

/-- The parameters stay, the collaborator's next cycle stands at the ports, and a free value is drawn exactly in a cycle
without a command (log entries 1, 2 and 4). -/
theorem edge_frame (s : State) :
    (edge s).params = s.params ∧ (edge s).pins = s.pending.headD PortIn.idle ∧ (edge s).pending = s.pending.tail ∧
    (edge s).draws = if s.pins.rst || !s.pins.cmdValid then s.draws + 1 else s.draws := by
  rcases edge_cases s with ⟨hr, hedge, -⟩ | ⟨hr, hv, hedge, -⟩ | ⟨i, t, hr, hv, -, ht, hedge, -⟩ |
    ⟨e, hr, hv, -, hedge, -⟩
  · simp [hedge, hr]
  · simp [hedge, hr, hv]
  · obtain ⟨⟨hparams, -, hpending, hdraws⟩, -⟩ := exec_frame ht
    simp [hedge, hr, hv, hparams, hpending, hdraws]
  · simp [hedge, hr, hv]

@[simp] theorem edge_params (s : State) : (edge s).params = s.params := (edge_frame s).1

/-- An idle cycle keeps the pairs (R71). -/
theorem edge_pairs_of_idle {s : State} (hr : s.pins.rst = false) (hv : s.pins.cmdValid = false) :
    (edge s).pairs = s.pairs := by
  rw [← eq_edge_of_step (step_of_idle hr hv)]; rfl

/-- err is 1 exactly in a cycle that is not legal (60_exceptions.md R146). -/
theorem outputs_err (s : State) : (outputs s).err = !s.pins.legal := by
  rcases edge_cases s with ⟨hr, -, hout⟩ | ⟨-, hv, -, hout⟩ | ⟨i, t, -, -, hd, -, -, hout⟩ | ⟨e, hr, hv, hd, -, hout⟩
  · simp [hout, PortIn.legal, hr]
  · simp [hout, PortIn.legal, hv]
  · simp [hout, PortIn.legal, legalWord_of_decode_ok hd]
  · simp [hout, PortIn.legal, hr, hv, legalWord_of_decode_error hd]

/-- Settles O33: the record at the edge, and the completed step as the edge. -/
theorem outputsMatchTheEdge : Obligations.OutputsMatchTheEdge := by
  unfold Obligations.OutputsMatchTheEdge
  exact ⟨edge_out, fun _ _ => eq_edge_of_step⟩

/-- Settles O34: err is the complement of the cycle's legality, which the ports alone decide. -/
theorem errDependsOnTheCurrentCycle : Obligations.ErrDependsOnTheCurrentCycle := by
  unfold Obligations.ErrDependsOnTheCurrentCycle
  intro s
  simp [outputs_err, PortIn.legal]

/-- Settles O44: a completed step is the edge, whose frame holds in every cycle. -/
theorem stepFrame : Obligations.StepFrame := by
  unfold Obligations.StepFrame
  intro s t h
  obtain rfl := eq_edge_of_step h
  obtain ⟨hparams, hpins, hpending, hdraws⟩ := edge_frame s
  exact ⟨hparams, hpins, hpending, hdraws, edge_pairs_of_idle⟩

/-- Settles O6: the decoded instruction is performed, and the edge presents the next cycle. -/
theorem stepRunsDecodedInstruction : Obligations.StepRunsDecodedInstruction := by
  unfold Obligations.StepRunsDecodedInstruction
  exact fun s i hr hv hd => ⟨step_of_decode_ok hr hv hd, fun t ht => step_of_exec hr hv hd ht⟩

/-- The placed word stands at the ports, accepted, with din as it was (log entry 7). -/
theorem State.withFetchWord_toNat (s : State) (w : Byte) :
    s.withFetchWord 8 w.toNat = { s with pins := ⟨false, true, w, s.pins.din⟩ } := by
  rw [State.withFetchWord, tableWord_toNat]

/-- Settles O7: the placed word is accepted and decodes to the instruction it encodes. -/
theorem placedWordRuns : Obligations.PlacedWordRuns := by
  unfold Obligations.PlacedWordRuns
  intro s i
  rw [State.withFetchWord_toNat]
  exact step_of_decode_ok rfl rfl (decode_encode i)

/-- Settles O9: such a cycle is legal, and its step is the edge of a reset or of an idle cycle. -/
theorem cycleWithoutCommand : Obligations.CycleWithoutCommand := by
  unfold Obligations.CycleWithoutCommand
  intro s h
  have hlegal : s.pins.legal = true := by rcases h with h | h <;> simp [PortIn.legal, h]
  have hout : outputs s = ⟨Config.freeDout s.draws, false⟩ := outputs_of_no_command h
  obtain ⟨hparams, hpins, hpending, hdraws⟩ := edge_frame s
  have hdrawn : (edge s).draws = s.draws + 1 := by rcases h with h | h <;> simpa [h] using hdraws
  have hkeep (hr : s.pins.rst = false) : (edge s).pairs = s.pairs :=
    edge_pairs_of_idle hr (h.resolve_left (ne_true_of_eq_false hr))
  exact ⟨hout, edge s, step_of_legal hlegal, (edge_out s).trans hout, hdrawn, hkeep, hparams, hpins, hpending⟩

end Sys2Proof.Machine
end

section
/-! PROOFS. Runs (60_exceptions.md sections 1, 4 and 5): legal inputs as an invariant, the run over a list of presented
cycles up to the first illegal one, and the runs of a reset and of four reads. -/

namespace Sys2Proof.Machine

/-! ## Legal inputs as an invariant -/

/-- Legal inputs are a legal cycle at the ports and legal ones after it. -/
theorem State.inputsLegal_iff (s : State) :
    s.inputsLegal = true ↔ s.pins.legal = true ∧ ∀ c ∈ s.pending, c.legal = true := by
  simp [State.inputsLegal]

/-- The cycle an edge puts at the ports is one of the list or an idle one, and both are legal. -/
theorem inputsLegal_edge {s : State} (h : s.inputsLegal = true) : (edge s).inputsLegal = true := by
  obtain ⟨-, hpending⟩ := s.inputsLegal_iff.1 h
  obtain ⟨-, hpins', hpending', -⟩ := edge_frame s
  rw [State.inputsLegal_iff, hpins', hpending']
  cases hcs : s.pending with
  | nil => exact ⟨rfl, fun c hc => (nomatch hc)⟩
  | cons c cs =>
    rw [hcs] at hpending
    exact List.forall_mem_cons.1 hpending

/-- A step from legal inputs completes and leaves legal inputs. -/
theorem step_of_inputsLegal {s : State} (h : s.inputsLegal = true) :
    step s = .next (edge s) ∧ (edge s).inputsLegal = true :=
  ⟨step_of_legal (s.inputsLegal_iff.1 h).1, inputsLegal_edge h⟩

/-- A run from legal inputs completes, however many steps it is given. -/
theorem run_of_inputsLegal (n : Nat) : ∀ {s : State}, s.inputsLegal = true → ∃ t, core.run n s = .next t := by
  induction n with
  | zero => exact fun _ => ⟨_, rfl⟩
  | succ n ih =>
    intro s h
    obtain ⟨hstep, hnext⟩ := step_of_inputsLegal h
    rw [run_succ_of_step hstep]
    exact ih hnext

/-- Settles O41: the step completes with legal inputs, and a legal cycle shows err 0. -/
theorem legalInputsAreKept : Obligations.LegalInputsAreKept := by
  unfold Obligations.LegalInputsAreKept
  rintro s ⟨h, -⟩
  obtain ⟨hstep, hnext⟩ := step_of_inputsLegal h
  refine ⟨edge s, hstep, hnext, ?_⟩
  rw [edge_out, outputs_err, (s.inputsLegal_iff.1 h).1, Bool.not_true]

/-- Settles O42: at reset nothing is presented and err is 0, whatever the parameters. -/
theorem resetHasLegalInputs : Obligations.ResetHasLegalInputs := by
  unfold Obligations.ResetHasLegalInputs
  have h (p : ResetParams) : (State.resetWith p).Inv := ⟨rfl, State.resetWith_out_err p⟩
  exact ⟨h {}, h⟩

/-- Settles O43: every run completes, so none is a fault. -/
theorem legalInputsAreSafe : Obligations.LegalInputsAreSafe := by
  unfold Obligations.LegalInputsAreSafe
  refine fun s h => ⟨fun n r hfault => ?_, fun n => run_of_inputsLegal n h⟩
  obtain ⟨t, ht⟩ := run_of_inputsLegal n h
  cases ht.symm.trans hfault

/-! ## Runs over a list of presented cycles -/

/-- The edge of the first presented cycle leaves the rest presented. -/
theorem edge_present_cons (s : State) (c : PortIn) (cs : List PortIn) :
    edge (s.present (c :: cs)) = (edge (s.present (c :: cs))).present cs := by
  obtain ⟨-, hpins, hpending, -⟩ := edge_frame (s.present (c :: cs))
  simp only [State.present_pending, List.tail_cons] at hpins hpending
  simp only [State.present, ← hpins, ← hpending]

/-- The edges of the cycles presented in front of a list leave the list presented. -/
theorem edge_iterate_present_append (pre post : List PortIn) (s : State) :
    edge^[pre.length] (s.present (pre ++ post)) = (edge^[pre.length] (s.present (pre ++ post))).present post := by
  induction pre generalizing s with
  | nil => rfl
  | cons c cs ih =>
    rw [List.length_cons, Function.iterate_succ_apply, List.cons_append, edge_present_cons]
    exact ih _

/-- A run over legal cycles is their edges, and then the run over what is presented after them. -/
theorem run_present_append {pre : List PortIn} (hpre : pre.all PortIn.legal = true) (post : List PortIn) (s : State)
    (n : Nat) :
    core.run (pre.length + n) (s.present (pre ++ post)) =
      core.run n (edge^[pre.length] (s.present (pre ++ post))) := by
  induction pre generalizing s with
  | nil => rw [List.length_nil, Nat.zero_add]; rfl
  | cons c cs ih =>
    obtain ⟨hc, hcs⟩ := Bool.and_eq_true_iff.1 hpre
    have hstep : step (s.present (c :: (cs ++ post))) = .next (edge (s.present (c :: (cs ++ post)))) :=
      step_of_legal hc
    rw [List.length_cons, Nat.add_right_comm, Function.iterate_succ_apply, List.cons_append,
      run_succ_of_step hstep, edge_present_cons]
    exact ih hcs _

/-- Settles O40: the legal cycles complete, and the illegal one stands at the ports after them. -/
theorem firstIllegalWordFaultsTheSequence : Obligations.FirstIllegalWordFaultsTheSequence := by
  unfold Obligations.FirstIllegalWordFaultsTheSequence
  intro s pre post c k hpre hc
  rw [Nat.add_assoc, Nat.add_comm 1 k, run_present_append hpre, edge_iterate_present_append]
  exact run_succ_of_step_fault (step_of_illegal hc) k

/-! ## The run of a reset and of four reads -/

/-- Settles O46: the one cycle presented is a reset, which loads the parameters whatever the cells hold. -/
theorem bootReset : Obligations.BootReset := by
  unfold Obligations.BootReset
  exact fun p x => ⟨_, run_succ_of_step (step_of_rst rfl) 0, rfl, rfl⟩

theorem exec_rd16 (p : PairName) (s : State) : exec (.rd16 p) s = .next (s.respond (s.pairs.get p)) := rfl

/-- A presented RD16 of a run: the pair is shown, and the rest of the cycles presented. -/
theorem run_rd16 (s : State) (p : PairName) (d : Word) (cs : List PortIn) (n : Nat) :
    core.run (n + 1) (s.present (.ofInstr (.rd16 p) d :: cs)) =
      core.run n ((s.respond (s.pairs.get p)).present cs) :=
  run_present_ofInstr (exec_rd16 p _) n

/-- Settles O36: each read shows its pair and leaves the four for the next. -/
theorem fourReadsObserveTheState : Obligations.FourReadsObserveTheState := by
  unfold Obligations.FourReadsObserveTheState
  intro s d cs
  have h₁ (n : Nat) : core.run (n + 1) (s.present cs) = _ :=
    run_rd16 s .af d [.ofInstr (.rd16 .bc) d, .ofInstr (.rd16 .de) d, .ofInstr (.rd16 .hl) d] n
  have h₂ (n : Nat) := (h₁ (n + 1)).trans (run_rd16 _ .bc d _ n)
  have h₃ (n : Nat) := (h₂ (n + 1)).trans (run_rd16 _ .de d _ n)
  have h₄ (n : Nat) := (h₃ (n + 1)).trans (run_rd16 _ .hl d _ n)
  exact ⟨_, _, _, _, h₁ 0, h₂ 0, h₃ 0, h₄ 0, rfl, rfl⟩

end Sys2Proof.Machine
end

section
/-! PROOFS. Who writes and reads which pair and which flag (10_state.md section 3, 40_pair_access.md section 3,
41_flags.md sections 1 and 3, 30_encoding.md section 5). -/

namespace Sys2Proof.Machine

/-- Settles O18: every command completes and leaves the pairs that are not its target. -/
theorem writesStayInTheirPair : Obligations.WritesStayInTheirPair := by
  unfold Obligations.WritesStayInTheirPair
  intro i s
  obtain ⟨t, ht⟩ := exec_exists_next i s
  exact ⟨t, ht, fun _ => exec_get_of_ne_target ht⟩

/-! ## The flag commands -/

/-- Settles O20: the bits and masks by the table, by the select, and in AF. -/
theorem flagTable : Obligations.FlagTable := by
  unfold Obligations.FlagTable
  exact ⟨⟨rfl, rfl, rfl, rfl⟩, ⟨rfl, rfl, rfl, rfl⟩,
    fun f => ⟨f.bit_eq_seven_sub_index, f.mask_eq_shift⟩, Pairs.readFlag_eq_af_bit⟩

/-- One bit of a byte as a field is the bit. -/
theorem extractLsb'_one_eq_ofBool (v : Byte) (b : Nat) : v.extractLsb' b 1 = BitVec.ofBool (v.getLsbD b) := by
  apply BitVec.eq_of_getLsbD_eq
  intro k hk
  obtain rfl : k = 0 := by omega
  simp

theorem zextBit_eq_setWidth_ofBool (c : Bool) : zextBit c = (BitVec.ofBool c).setWidth 16 := by cases c <;> rfl

/-- A flag as a result is its one bit, zero-extended (R78). -/
theorem zextBit_getLsbD (v : Byte) (b : Nat) : zextBit (v.getLsbD b) = (v.extractLsb' b 1).setWidth 16 := by
  rw [zextBit_eq_setWidth_ofBool, extractLsb'_one_eq_ofBool]

/-- Writing F back as it was leaves the pairs. -/
theorem Pairs.setFlagByte_flagByte (x : Pairs) : x.setFlagByte x.flagByte = x := by
  rw [Pairs.setFlagByte, Pairs.flagByte, joinBytes_highByte_lowByte]

/-- The rows of RDF: F kept, the flag's bit shown (41_flags.md R123). -/
theorem flagRow_rdf (f : FlagName) : FlagRow (.rdf f) id fun v => (v.extractLsb' f.bit 1).setWidth 16 := by
  refine fun s => ⟨_, exec_rdf f s, (Pairs.setFlagByte_flagByte s.pairs).symm, ?_⟩
  rw [State.respond_out, Pairs.readFlag_eq_bit, zextBit_getLsbD]
  rfl

/-- The rows of CLRF: the flag's mask taken out of F (41_flags.md R123). -/
theorem flagRow_clrf (f : FlagName) : FlagRow (.clrf f) (· &&& ~~~f.mask) fun _ => 0x0000 :=
  fun _ => ⟨_, rfl, rfl, rfl⟩

/-- The rows of SETF: the flag's mask put into F (41_flags.md R123). -/
theorem flagRow_setf (f : FlagName) : FlagRow (.setf f) (· ||| f.mask) fun _ => 0x0000 :=
  fun _ => ⟨_, rfl, rfl, rfl⟩

/-- Settles O24: the word of each row by the encoder, and the row at the flag's bit and mask. -/
theorem flagCommandsClosedForm : Obligations.FlagCommandsClosedForm := by
  unfold Obligations.FlagCommandsClosedForm
  exact ⟨⟨decode_encode (.rdf .z), flagRow_rdf .z⟩, ⟨decode_encode (.rdf .n), flagRow_rdf .n⟩,
    ⟨decode_encode (.rdf .h), flagRow_rdf .h⟩, ⟨decode_encode (.rdf .c), flagRow_rdf .c⟩,
    ⟨decode_encode (.clrf .z), flagRow_clrf .z⟩, ⟨decode_encode (.clrf .n), flagRow_clrf .n⟩,
    ⟨decode_encode (.clrf .h), flagRow_clrf .h⟩, ⟨decode_encode (.clrf .c), flagRow_clrf .c⟩,
    ⟨decode_encode (.setf .z), flagRow_setf .z⟩, ⟨decode_encode (.setf .n), flagRow_setf .n⟩,
    ⟨decode_encode (.setf .h), flagRow_setf .h⟩, ⟨decode_encode (.setf .c), flagRow_setf .c⟩⟩

/-- Settles O29: the mutation writes its own bit of AF, which is bit 7 for Z alone. -/
theorem mutatorsUseTheirOwnMask : Obligations.MutatorsUseTheirOwnMask := by
  unfold Obligations.MutatorsUseTheirOwnMask
  intro f s on hf
  have hbit : 7 ≠ f.bit := fun h => hf (FlagName.bit_injective.1 h.symm)
  refine ⟨_, exec_setfv f on s, ?_, ?_⟩
  · exact (s.pairs.getLsbD_get_putFlag f on .af 7).trans (if_neg fun h => hbit h.2)
  · rw [← FlagName.bit_eq_seven_sub_index]
    exact (s.pairs.getLsbD_get_putFlag f on .af f.bit).trans (if_pos ⟨rfl, rfl⟩)

/-- Settles O37: SETFV by what it leaves in every flag, RDFLAGS by the bits of its zero-extended byte. -/
theorem pseudoInstructions : Obligations.PseudoInstructions := by
  unfold Obligations.PseudoInstructions
  refine ⟨fun f on s => ⟨_, exec_setfv f on s, fun g => Pairs.readFlag_putFlag _ f g on⟩, fun s => ?_⟩
  obtain ⟨t, ht, hout, -⟩ := exec_read (i := rdflags) rfl s
  refine ⟨t, ht, fun f => ?_⟩
  have hbit : f.bit < 16 := Nat.lt_trans (FlagName.bit_lt_eight f) (by decide)
  rw [hout, rdflags, resultTable, BitVec.getLsbD_setWidth, decide_eq_true hbit, Bool.true_and,
    Pairs.readFlag_eq_bit]
  rfl

/-! ## Writers and readers of F -/

/-- A half write keeps F unless it is a write of F. -/
theorem Pairs.flagByte_writeHalf_of_ne (x : Pairs) {r : HalfName} (v : Byte) (hr : r ≠ .f) :
    (x.writeHalf r v).flagByte = x.flagByte :=
  (x.readHalf_writeHalf r .f v).trans (if_neg hr.symm)

/-- A pair write keeps F unless it is a write of AF. -/
theorem Pairs.flagByte_set_of_ne (x : Pairs) {p : PairName} (v : Word) (hp : p ≠ .af) :
    (x.set p v).flagByte = x.flagByte :=
  congrArg lowByte ((x.get_set p .af v).trans (if_neg hp.symm))

/-- A command that changes F is a flag mutation or a write of F or of AF (10_state.md R34). -/
theorem writer_of_flagByte_ne {i : Instr} {s t : State} (h : exec i s = .next t)
    (hF : t.pairs.flagByte ≠ s.pairs.flagByte) : (∃ f, i = .setf f ∨ i = .clrf f) ∨ i = .wr8 .f ∨ i = .wr16 .af := by
  cases i with
  | rd16 | rd8 | rdf => exact absurd (congrArg Pairs.flagByte (exec_read_pairs h rfl)) hF
  | wr16 p =>
    cases h
    by_cases hp : p = .af
    · exact .inr (.inr (hp ▸ rfl))
    · exact absurd (Pairs.flagByte_set_of_ne _ _ hp) hF
  | wr8 r =>
    cases h
    by_cases hr : r = .f
    · exact .inr (.inl (hr ▸ rfl))
    · exact absurd (Pairs.flagByte_writeHalf_of_ne _ _ hr) hF
  | clrf f => exact .inl ⟨f, .inr rfl⟩
  | setf f => exact .inl ⟨f, .inl rfl⟩

/-- The results of all commands but RDF, RD8 F and RD16 AF are the same whatever F holds. -/
theorem resultTable_setFlagByte {i : Instr} (hrdf : ∀ f, i ≠ .rdf f) (hrd8 : i ≠ .rd8 .f) (hrd16 : i ≠ .rd16 .af)
    (x : Pairs) (v : Byte) : resultTable (x.setFlagByte v) i = resultTable x i := by
  cases i with
  | rd16 p => exact (x.get_setFlagByte v p).trans (if_neg fun hp => hrd16 (congrArg Instr.rd16 hp))
  | rd8 r =>
    have hr : (x.writeHalf .f v).readHalf r = x.readHalf r :=
      (x.readHalf_writeHalf .f r v).trans (if_neg fun hr => hrd8 (congrArg Instr.rd8 hr))
    exact congrArg (BitVec.setWidth 16) hr
  | rdf f => exact absurd rfl (hrdf f)
  | wr16 | wr8 | clrf | setf => rfl

/-- Settles O30: the writers of F, what each writes, what each reader shows, and that no other result depends on F. -/
theorem whoWritesAndReadsF : Obligations.WhoWritesAndReadsF := by
  unfold Obligations.WhoWritesAndReadsF
  refine ⟨fun _ _ _ => writer_of_flagByte_ne, fun f g s => ?_, fun s => ?_, fun s hr => ?_, fun s => ?_,
    fun i s v hrdf hrd8 hrd16 => ?_⟩
  · have hother (on : Bool) (hg : g ≠ f) : (s.pairs.putFlag f on).readFlag g = s.pairs.readFlag g :=
      (Pairs.readFlag_putFlag _ f g on).trans (if_neg hg)
    exact ⟨⟨_, exec_setfv f true s, hother true⟩, ⟨_, exec_setfv f false s, hother false⟩⟩
  · exact ⟨⟨_, exec_wr8 .f s, (Pairs.readHalf_writeHalf _ .f .f _).trans (if_pos rfl)⟩, _, exec_wr16 .af s, rfl⟩
  · exact ⟨_, step_of_rst hr, rfl⟩
  · refine ⟨⟨_, rfl, rfl⟩, ⟨_, exec_rd16 .af s, rfl⟩, fun f => ⟨_, exec_rdf f s, ?_⟩⟩
    rw [State.respond_out, Pairs.readFlag_eq_bit, zextBit]
  · obtain ⟨t, ht⟩ := exec_exists_next i s
    obtain ⟨u, hu⟩ := exec_exists_next i { s with pairs := s.pairs.setFlagByte v }
    exact ⟨t, u, ht, hu, by rw [exec_out hu, exec_out ht, resultTable_setFlagByte hrdf hrd8 hrd16]⟩

end Sys2Proof.Machine
end

section
/-! PROOFS. The machine against the spec's step function over eight separate bytes (00_scope.md R12, 10_state.md R24): one
cycle, any list of cycles (20_memory.md R62), and that nothing else decides the pairs (10_state.md R38). -/

namespace Sys2Proof.Machine

/-! ## The views of four pairs on their eight bytes -/

theorem ByteFile.get_ofPairs (x : Pairs) (r : HalfName) : (ofPairs x).get r = x.readHalf r := by cases r <;> rfl

/-- A half write stores one byte. -/
theorem ByteFile.ofPairs_writeHalf (x : Pairs) (r : HalfName) (v : Byte) :
    ofPairs (x.writeHalf r v) = (ofPairs x).put r v := by
  cases r <;> simp [ofPairs, put, Pairs.writeHalf, HalfName.isHigh, HalfName.pair, Pairs.get, Pairs.set]

/-- A pair write stores its two bytes. -/
theorem ByteFile.ofPairs_set (x : Pairs) (p : PairName) (v : Word) :
    ofPairs (x.set p v) = ((ofPairs x).put p.highHalf (highByte v)).put p.lowHalf (lowByte v) := by
  cases p <;> rfl

/-- Four pairs are their eight bytes (10_state.md R22, R23). -/
theorem ByteFile.ofPairs_injective {x y : Pairs} (h : ofPairs x = ofPairs y) : x = y := by
  refine Pairs.ext_get fun p => ?_
  rw [Pairs.get_eq_halves, Pairs.get_eq_halves y]
  simp only [← get_ofPairs, h]

/-! ## A command on the eight bytes -/

theorem ByteFile.perform_rdf (x : ByteFile) (d : Word) (f : FlagName) :
    x.perform d (.rdf f) = (x, .val (0x0000#15 ++ x.f.extractLsb' f.bit 1)) := by
  cases f <;> rfl

theorem ByteFile.perform_clrf (x : ByteFile) (d : Word) (f : FlagName) :
    x.perform d (.clrf f) = (x.put .f (x.f &&& ~~~f.mask), .ack) := by
  cases f <;> rfl

theorem ByteFile.perform_setf (x : ByteFile) (d : Word) (f : FlagName) :
    x.perform d (.setf f) = (x.put .f (x.f ||| f.mask), .ack) := by
  cases f <;> rfl

/-- Fifteen zero bits in front of a flag's bit are R78's result of RDF. -/
theorem resultTable_rdf (x : Pairs) (f : FlagName) :
    resultTable x (.rdf f) = 0x0000#15 ++ x.flagByte.extractLsb' f.bit 1 := by
  rw [resultTable, ← Pairs.readFlag_eq_select_bit, Pairs.readFlag_eq_bit, ← zextBit, zextBit_getLsbD]
  exact BitVec.setWidth_eq_append (by decide)

/-- What the step model answers a command with: the result of a read, Ack for a write. -/
def responseTo (x : Pairs) (i : Instr) : Response :=
  if writeTarget i = none then .val (resultTable x i) else .ack

theorem responseTo_of_read {i : Instr} (hi : writeTarget i = none) (x : Pairs) :
    responseTo x i = .val (resultTable x i) := if_pos hi

theorem responseTo_of_write {i : Instr} (hi : writeTarget i ≠ none) (x : Pairs) : responseTo x i = .ack := if_neg hi

/-- A command leaves the eight bytes the step model computes, and the step model answers by R78's table. -/
theorem ByteFile.perform_ofPairs {i : Instr} {s t : State} (h : exec i s = .next t) :
    (ofPairs s.pairs).perform s.pins.din i = (ofPairs t.pairs, responseTo s.pairs i) := by
  cases i with
  | rd16 p =>
    cases h
    rw [perform, get_ofPairs, get_ofPairs, responseTo_of_read rfl, resultTable, Pairs.get_eq_halves]
    rfl
  | rd8 r =>
    cases h
    rw [perform, get_ofPairs, responseTo_of_read rfl, resultTable, zero_append_byte]
    rfl
  | rdf f =>
    cases h
    rw [perform_rdf, responseTo_of_read rfl, resultTable_rdf]
    rfl
  | wr16 p => cases h; exact congrArg (·, Response.ack) (ofPairs_set _ p _).symm
  | wr8 r => cases h; exact congrArg (·, Response.ack) (ofPairs_writeHalf _ r _).symm
  | clrf f => cases h; exact (perform_clrf _ _ f).trans (congrArg (·, Response.ack) (ofPairs_writeHalf _ .f _).symm)
  | setf f => cases h; exact (perform_setf _ _ f).trans (congrArg (·, Response.ack) (ofPairs_writeHalf _ .f _).symm)

theorem ByteFile.step_of_decode_ok {w : Byte} {i : Instr} (hd : decode w = .ok i) (p : ResetParams) (x : ByteFile)
    (din : Word) : x.step p (.cmd w din) = x.perform din i := by
  simp only [ByteFile.step, hd]

/-! ## One cycle -/

theorem PortIn.input?_of_rst {c : PortIn} (hr : c.rst = true) : c.input? = some .reset := by
  simp [PortIn.input?, hr]

theorem PortIn.input?_of_idle {c : PortIn} (hr : c.rst = false) (hv : c.cmdValid = false) : c.input? = none := by
  simp [PortIn.input?, hr, hv]

theorem PortIn.input?_of_cmdValid {c : PortIn} (hr : c.rst = false) (hv : c.cmdValid = true) :
    c.input? = some (.cmd c.cmd c.din) := by
  simp [PortIn.input?, hr, hv]

/-- Settles O47: the four things a cycle can be, each by its edge, its outputs and the rule of the step model. -/
theorem stepModelAgrees : Obligations.StepModelAgrees := by
  unfold Obligations.StepModelAgrees
  intro s
  rcases edge_cases s with ⟨hr, hedge, hout⟩ | ⟨hr, hv, hedge, -⟩ | ⟨i, t, hr, hv, hd, ht, hedge, hout⟩ |
    ⟨e, hr, hv, hd, hedge, hout⟩
  · rw [PortIn.input?_of_rst hr, hedge, hout]
    exact ⟨rfl, rfl, fun h => absurd rfl h, _, step_of_rst hr⟩
  · rw [PortIn.input?_of_idle hr hv, hedge]
    exact ⟨rfl, _, step_of_idle hr hv⟩
  · have hstep : ∃ u, step s = .next u := ⟨_, step_of_exec hr hv hd ht⟩
    rw [PortIn.input?_of_cmdValid hr hv, hedge, hout]
    dsimp only
    rw [ByteFile.step_of_decode_ok hd, ByteFile.perform_ofPairs ht]
    by_cases hi : writeTarget i = none
    · rw [responseTo_of_read hi]
      exact ⟨rfl, rfl, hstep⟩
    · rw [responseTo_of_write hi]
      exact ⟨rfl, rfl, fun _ => resultTable_of_write hi _, hstep⟩
  · rw [PortIn.input?_of_cmdValid hr hv, hedge, hout]
    dsimp only
    rw [ByteFile.step_of_decode_error hd]
    exact ⟨rfl, rfl, step_of_decode_error hr hv hd⟩

/-- The bytes after the edge are the step model's after the inputs of the cycle: none, or one. -/
theorem ofPairs_edge (s : State) :
    ByteFile.ofPairs (edge s).pairs = (ByteFile.ofPairs s.pairs).runInputs s.params s.pins.input?.toList := by
  have hagree := stepModelAgrees s
  cases hin : s.pins.input? with
  | none =>
    rw [hin] at hagree
    exact congrArg ByteFile.ofPairs hagree.1
  | some i =>
    rw [hin] at hagree
    exact hagree.1

/-! ## Sequences of cycles -/

theorem ByteFile.runInputs_append (p : ResetParams) (x : ByteFile) (is js : List Input) :
    x.runInputs p (is ++ js) = (x.runInputs p is).runInputs p js :=
  List.foldl_append

/-- The bytes after the edges of a list of cycles are the step model's after the inputs among them, in order (R62). -/
theorem ofPairs_edge_iterate (cs : List PortIn) (s : State) :
    ByteFile.ofPairs (edge^[cs.length] (s.present cs)).pairs =
      (ByteFile.ofPairs s.pairs).runInputs s.params (cs.filterMap PortIn.input?) := by
  induction cs generalizing s with
  | nil => rfl
  | cons c cs ih =>
    have hinputs : (c :: cs).filterMap PortIn.input? = c.input?.toList ++ cs.filterMap PortIn.input? := by
      cases hc : c.input? <;> simp [hc]
    rw [List.length_cons, Function.iterate_succ_apply, edge_present_cons, ih, edge_params, ofPairs_edge, hinputs,
      ByteFile.runInputs_append]
    rfl

/-- Settles O48: a run over legal cycles is their edges, and the edges compute what the step model does. -/
theorem sequencesCompose : Obligations.SequencesCompose := by
  unfold Obligations.SequencesCompose
  refine ⟨fun cs s hcs => ⟨edge^[cs.length] (s.present cs), ?_, ofPairs_edge_iterate cs s⟩, ofPairs_edge_iterate⟩
  have hrun := run_present_append hcs [] s 0
  rwa [List.append_nil] at hrun

/-! ## No hidden state -/

/-- The pairs after the edge are the step model's, so the pairs, the ports and the parameters decide them. -/
theorem edge_pairs_congr {s u : State} (hpairs : u.pairs = s.pairs) (hpins : u.pins = s.pins)
    (hparams : u.params = s.params) : (edge u).pairs = (edge s).pairs := by
  apply ByteFile.ofPairs_injective
  rw [ofPairs_edge, ofPairs_edge, hpairs, hpins, hparams]

/-- The outputs of an accepted word are decided by the pairs and the ports. -/
theorem outputs_congr {s u : State} (hpairs : u.pairs = s.pairs) (hpins : u.pins = s.pins)
    (hr : s.pins.rst = false) (hv : s.pins.cmdValid = true) : outputs u = outputs s := by
  simp [outputs, hpins, hpairs, hr, hv]

/-- Settles O49: the ports decide whether the step completes, and the step model's inputs what it leaves. -/
theorem noHiddenState : Obligations.NoHiddenState := by
  unfold Obligations.NoHiddenState
  intro s u hpairs hpins hparams
  have hedge : (edge u).pairs = (edge s).pairs := edge_pairs_congr hpairs hpins hparams
  refine ⟨hedge, fun t h => ?_, fun r h => ?_, outputs_congr hpairs hpins⟩
  · have hlegal : u.pins.legal = true := hpins ▸ legal_of_step h
    exact ⟨edge u, step_of_legal hlegal, by rw [hedge, eq_edge_of_step h]⟩
  · cases hlegal : s.pins.legal with
    | true => cases (step_of_legal hlegal).symm.trans h
    | false =>
      rw [← h, step_of_illegal hlegal, step_of_illegal (hpins ▸ hlegal), hpins]

end Sys2Proof.Machine
end
